-- ==== Sys2Proof/Word.lean ====
section
/-! DEFINITION. The word types of the FCBX block: bytes, the multi-byte widths of rule R9, and the 8-byte link
record of rule R89. -/

namespace Sys2Proof

/-- An unsigned 8-bit byte (00_scope.md R9). -/
abbrev Byte := BitVec 8

/-- A 16-bit quantity: a checksum, a buffer index, a parse length (R9). -/
abbrev Half := BitVec 16

/-- A 32-bit quantity: the `W` operand, a read-port word, the wire timestamp field (R9, R80). -/
abbrev Word := BitVec 32

/-- A 64-bit quantity: the request word, `TIME_OFFSET`, a wall-clock draw (R9, R80, R161). -/
abbrev DWord := BitVec 64

/-- The 31-bit timestamp (R9, R162). -/
abbrev Stamp := BitVec 31

/-- One link record: eight bytes in transmission order,
`[event_code][field_b][field_c][field_d][timestamp:4]` (30_encoding.md R89). The four timestamp bytes stand as
they cross the wire, the first at record byte 4 (20_memory.md R64). -/
structure Record where
  /-- record byte 0, `event_code` -/
  code : Byte
  /-- record byte 1, `field_b` -/
  fieldB : Byte
  /-- record byte 2, `field_c` -/
  fieldC : Byte
  /-- record byte 3, `field_d` -/
  fieldD : Byte
  /-- record byte 4, the first timestamp byte -/
  t0 : Byte
  /-- record byte 5 -/
  t1 : Byte
  /-- record byte 6 -/
  t2 : Byte
  /-- record byte 7, the last timestamp byte -/
  t3 : Byte
  deriving DecidableEq, Repr

end Sys2Proof
end

