-- ==== Sys2Proof/Syntax.lean ====
section
/-! DEFINITION. The whole syntax: one constructor for every row of spec/opcode_table.json. The table has three
kinds of row, and the machine reads each kind from a place of its own: request words from the request port (rows
ENCODE to PAD), link records from the receive queue (rows REC_*), and command ids with a payload from the host
that runs the session driver (rows CMD_*). -/

namespace Sys2Proof

/-- The instructions of the FCBX model (spec/opcode_table.json). Register numbers do not occur: the operands are
the fields that R82 to R85, R89 and R214 name. -/
inductive Instr where
  /-- `ENCODE cmd, len` (R82, R122): build an adapter frame in `OBUF`. -/
  | encode (cmd len : Byte)
  /-- `PARSE off, n` (R83, R123): take a frame apart at `IBUF[off]`, `n` bytes being valid. -/
  | parse (off n : Half)
  /-- `XFER byte` (R84, R170): one synchronized single-byte transfer. -/
  | xfer (b : Byte)
  /-- `ADVANCE dt` (R85, R178): add `dt` ticks to `TIME_OFFSET` and send a time-sync record. -/
  | advance (dt : Word)
  /-- `TSYNC` = `ADVANCE 0` (R104). -/
  | tsync
  /-- `POLL` = `XFER 0x4B` (R104). -/
  | poll
  /-- `EOC` = `XFER 0x80` (R104). -/
  | eoc
  /-- `PAD` = `XFER 0x00` (R104). -/
  | pad
  /-- An inbound version/capability record, code 0x01 (R91, R166, R180). -/
  | recVersion (b c d : Byte) (ts : Word)
  /-- An inbound joypad record, code 0x65 (R95, R181). -/
  | recJoypad (b c d : Byte) (ts : Word)
  /-- An inbound data-exchange-request record, code 0x68 (R92, R182). -/
  | recXferReq (b c d : Byte) (ts : Word)
  /-- An inbound data-exchange-reply record, code 0x69 (R93, R172). -/
  | recXferReply (b c d : Byte) (ts : Word)
  /-- An inbound time-sync record, code 0x6A (R94, R183). -/
  | recTimeSync (b c d : Byte) (ts : Word)
  /-- An inbound status record, code 0x6C (R95, R184). -/
  | recStatus (b c d : Byte) (ts : Word)
  /-- An inbound disconnect-request record, code 0x6D (R95, R184). -/
  | recDisconnectReq (b c d : Byte) (ts : Word)
  /-- An inbound record of any other event code (R96, R185). -/
  | recUnknown (code b c d : Byte) (ts : Word)
  /-- The command begin-session, id 0x10 (R102, R220), with its encoded payload. -/
  | cmdBeginSession (payload : List Byte)
  /-- The command end-session, id 0x11 (R102, R220), with its encoded payload. -/
  | cmdEndSession (payload : List Byte)
  /-- The command dial, id 0x12 (R102, R220), with its encoded payload. -/
  | cmdDial (payload : List Byte)
  /-- The command hang-up, id 0x13 (R102, R220), with its encoded payload. -/
  | cmdHangUp (payload : List Byte)
  /-- The command wait-for-call, id 0x14 (R102, R220), with its encoded payload. -/
  | cmdWaitForCall (payload : List Byte)
  /-- The command transfer-data, id 0x15 (R102, R220), with its encoded payload. -/
  | cmdTransferData (payload : List Byte)
  /-- The command reset, id 0x16 (R102, R220), with its encoded payload. -/
  | cmdReset (payload : List Byte)
  /-- The command telephone-status (the wrapper get-status, D46), id 0x17 (R102, R220), with its encoded payload. -/
  | cmdTelephoneStatus (payload : List Byte)
  /-- The command sio32-mode, id 0x18 (R102, R220), with its encoded payload. -/
  | cmdSio32Mode (payload : List Byte)
  /-- The command read-config, id 0x19 (R102, R220), with its encoded payload. -/
  | cmdReadConfig (payload : List Byte)
  /-- The command write-config, id 0x1A (R102, R220), with its encoded payload. -/
  | cmdWriteConfig (payload : List Byte)
  /-- The command transfer-data-end, id 0x1F (R102, R220), with its encoded payload. -/
  | cmdTransferDataEnd (payload : List Byte)
  /-- The command isp-login, id 0x21 (R102, R220), with its encoded payload. -/
  | cmdIspLogin (payload : List Byte)
  /-- The command isp-logout, id 0x22 (R102, R220), with its encoded payload. -/
  | cmdIspLogout (payload : List Byte)
  /-- The command open-tcp, id 0x23 (R102, R220), with its encoded payload. -/
  | cmdOpenTcp (payload : List Byte)
  /-- The command close-tcp, id 0x24 (R102, R220), with its encoded payload. -/
  | cmdCloseTcp (payload : List Byte)
  /-- The command open-udp, id 0x25 (R102, R220), with its encoded payload. -/
  | cmdOpenUdp (payload : List Byte)
  /-- The command close-udp, id 0x26 (R102, R220), with its encoded payload. -/
  | cmdCloseUdp (payload : List Byte)
  /-- The command dns-query, id 0x28 (R102, R220), with its encoded payload. -/
  | cmdDnsQuery (payload : List Byte)
  /-- The command firmware-version, id 0x3F (R102, R220), with its encoded payload. -/
  | cmdFirmwareVersion (payload : List Byte)
  /-- The command error, id 0x6E (R102, R220), with its encoded payload. -/
  | cmdError (payload : List Byte)
  deriving DecidableEq, Repr

end Sys2Proof
end

