-- ==== Sys2Proof/WellFormed.lean ====
section
/-! DEFINITION. Which instructions are well formed: exactly those some code of the spec's encodings stands for, each
under the name of its most specific row of spec/opcode_table.json. -/

namespace Sys2Proof

/-- The bytes with a pseudo-instruction of their own: `POLL`, `EOC` and `PAD` (30_encoding.md R104). -/
def pseudoXferBytes : List Byte := [0x4B, 0x80, 0x00]

/-- The event codes the source recognises (30_encoding.md R90). -/
def recognisedCodes : List Byte := [0x01, 0x65, 0x68, 0x69, 0x6A, 0x6C, 0x6D]

/-- The longest payload of an adapter frame: its length is one byte (00_scope.md R9, 45_host_protocol.md R214). -/
def maxPayload : Nat := 255

/-- Well-formedness as a Boolean check, constructor by constructor. `XFER` and `ADVANCE` leave to the four
pseudo-instructions the operand values that R104 names (so that every request word has one name), an unknown record
has a code outside the table of R90, and a command's payload has at most 255 bytes. Every other operand may hold
every value of its field. -/
def Instr.wellFormed : Instr → Bool
  | .encode _ _ => true
  | .parse _ _ => true
  | .xfer b => !pseudoXferBytes.contains b
  | .advance dt => dt != 0
  | .tsync => true
  | .poll => true
  | .eoc => true
  | .pad => true
  | .recVersion _ _ _ _ => true
  | .recJoypad _ _ _ _ => true
  | .recXferReq _ _ _ _ => true
  | .recXferReply _ _ _ _ => true
  | .recTimeSync _ _ _ _ => true
  | .recStatus _ _ _ _ => true
  | .recDisconnectReq _ _ _ _ => true
  | .recUnknown code _ _ _ _ => !recognisedCodes.contains code
  | .cmdBeginSession p => decide (p.length ≤ maxPayload)
  | .cmdEndSession p => decide (p.length ≤ maxPayload)
  | .cmdDial p => decide (p.length ≤ maxPayload)
  | .cmdHangUp p => decide (p.length ≤ maxPayload)
  | .cmdWaitForCall p => decide (p.length ≤ maxPayload)
  | .cmdTransferData p => decide (p.length ≤ maxPayload)
  | .cmdReset p => decide (p.length ≤ maxPayload)
  | .cmdTelephoneStatus p => decide (p.length ≤ maxPayload)
  | .cmdSio32Mode p => decide (p.length ≤ maxPayload)
  | .cmdReadConfig p => decide (p.length ≤ maxPayload)
  | .cmdWriteConfig p => decide (p.length ≤ maxPayload)
  | .cmdTransferDataEnd p => decide (p.length ≤ maxPayload)
  | .cmdIspLogin p => decide (p.length ≤ maxPayload)
  | .cmdIspLogout p => decide (p.length ≤ maxPayload)
  | .cmdOpenTcp p => decide (p.length ≤ maxPayload)
  | .cmdCloseTcp p => decide (p.length ≤ maxPayload)
  | .cmdOpenUdp p => decide (p.length ≤ maxPayload)
  | .cmdCloseUdp p => decide (p.length ≤ maxPayload)
  | .cmdDnsQuery p => decide (p.length ≤ maxPayload)
  | .cmdFirmwareVersion p => decide (p.length ≤ maxPayload)
  | .cmdError p => decide (p.length ≤ maxPayload)

/-- An instruction that some code stands for, under its own name. -/
abbrev Instr.WellFormed (i : Instr) : Prop := i.wellFormed = true

end Sys2Proof
end

