-- ==== Sys2Proof/Decode.lean ====
section
/-! DEFINITION. The decoder, total on every code and rejecting by name, and the encoder beside it, both written
from the encoding rules R80 to R87, R89 to R96, R64 and R102. -/

namespace Sys2Proof

/-! ## Bit fields and byte order -/

/-- Bits 63:56 of a request word, `op` (30_encoding.md R80). -/
def fieldOp (q : DWord) : Byte := q.extractLsb' 56 8

/-- Bits 55:48 of a request word, `A` (R80). -/
def fieldA (q : DWord) : Byte := q.extractLsb' 48 8

/-- Bits 47:40 of a request word, `B` (R80). -/
def fieldB (q : DWord) : Byte := q.extractLsb' 40 8

/-- Bits 39:32 of a request word, `Z` (R80). -/
def fieldZ (q : DWord) : Byte := q.extractLsb' 32 8

/-- Bits 31:0 of a request word, `W` (R80). -/
def fieldW (q : DWord) : Word := q.extractLsb' 0 32

/-- `W[31:16]`, `WH` (R80). -/
def fieldWH (q : DWord) : Half := q.extractLsb' 16 16

/-- `W[15:0]`, `WL` (R80). -/
def fieldWL (q : DWord) : Half := q.extractLsb' 0 16

/-- The request word with the given fields, `op` in the upper bits (R80). -/
def requestWord (op a b z : Byte) (w : Word) : DWord := op ++ a ++ b ++ z ++ w

/-- Byte `k` of a 32-bit value, byte 0 the least significant. -/
def byteOfWord (w : Word) (k : Nat) : Byte := w.extractLsb' (8 * k) 8

/-- The 32-bit value of four bytes in little-endian order, the first the least significant (20_memory.md R64). -/
def wordOfLE (b0 b1 b2 b3 : Byte) : Word := b3 ++ b2 ++ b1 ++ b0

/-- `rec.ts`, that is `{rec[7], rec[6], rec[5], rec[4]}` (30_encoding.md R89). -/
def Record.ts (r : Record) : Word := wordOfLE r.t0 r.t1 r.t2 r.t3

/-- The record of four leading bytes and a 32-bit timestamp field, stored little-endian (R64, R89). -/
def mkRecord (code b c d : Byte) (ts : Word) : Record :=
  ⟨code, b, c, d, byteOfWord ts 0, byteOfWord ts 1, byteOfWord ts 2, byteOfWord ts 3⟩

/-! ## Codes -/

/-- What the machine decodes: a request word from the request port (R80), a record from the head of the receive
queue (R89), or a command id with its payload from the host that runs the session driver (R102, R214). DEDUCED, safe:
log entry 2. -/
inductive Code where
  | request (q : DWord)
  | record (r : Record)
  | command (id : Byte) (payload : List Byte)
  deriving DecidableEq, Repr

/-- Why a code is no instruction. -/
inductive Reject where
  /-- the `op` field is not in the table of R81 (R87) -/
  | unknownOp (op : Byte)
  /-- a must-be-zero field of a legal `op` is non-zero (R87) -/
  | mustBeZero (op : Byte)
  /-- the command id is not in the list of R102; the host may still send it, since the codec carries every id -/
  | unlistedCommand (id : Byte)
  /-- the payload does not fit the length byte (R9, R214) -/
  | payloadTooLong (len : Nat)
  deriving DecidableEq, Repr

/-! ## The decoder -/

/-- The name of `XFER b`: its pseudo-instruction where R104 gives it one (DESIGN CHOICE, safe: log entry 1). -/
def nameXfer (b : Byte) : Instr :=
  if b = 0x4B then .poll else if b = 0x80 then .eoc else if b = 0x00 then .pad else .xfer b

/-- The name of `ADVANCE dt`: `TSYNC` for `dt = 0` (R104). -/
def nameAdvance (dt : Word) : Instr := if dt = 0 then .tsync else .advance dt

/-- Decoding a request word (R81 to R87). -/
def decodeRequest (q : DWord) : Except Reject Instr :=
  if fieldOp q = 0x01 then
    if fieldZ q = 0 ∧ fieldW q = 0 then .ok (.encode (fieldA q) (fieldB q)) else .error (.mustBeZero 0x01)
  else if fieldOp q = 0x02 then
    if fieldA q = 0 ∧ fieldB q = 0 ∧ fieldZ q = 0 then .ok (.parse (fieldWH q) (fieldWL q))
    else .error (.mustBeZero 0x02)
  else if fieldOp q = 0x10 then
    if fieldB q = 0 ∧ fieldZ q = 0 ∧ fieldW q = 0 then .ok (nameXfer (fieldA q)) else .error (.mustBeZero 0x10)
  else if fieldOp q = 0x11 then
    if fieldA q = 0 ∧ fieldB q = 0 ∧ fieldZ q = 0 then .ok (nameAdvance (fieldW q)) else .error (.mustBeZero 0x11)
  else .error (.unknownOp (fieldOp q))

/-- Decoding a record by its event code (R90); a record always decodes (R96). -/
def decodeRecord (r : Record) : Instr :=
  if r.code = 0x01 then .recVersion r.fieldB r.fieldC r.fieldD r.ts
  else if r.code = 0x65 then .recJoypad r.fieldB r.fieldC r.fieldD r.ts
  else if r.code = 0x68 then .recXferReq r.fieldB r.fieldC r.fieldD r.ts
  else if r.code = 0x69 then .recXferReply r.fieldB r.fieldC r.fieldD r.ts
  else if r.code = 0x6A then .recTimeSync r.fieldB r.fieldC r.fieldD r.ts
  else if r.code = 0x6C then .recStatus r.fieldB r.fieldC r.fieldD r.ts
  else if r.code = 0x6D then .recDisconnectReq r.fieldB r.fieldC r.fieldD r.ts
  else .recUnknown r.code r.fieldB r.fieldC r.fieldD r.ts

/-- The command ids of R102, each with its instruction. -/
def commandTable : List (Byte × (List Byte → Instr)) :=
  [(0x10, .cmdBeginSession), (0x11, .cmdEndSession), (0x12, .cmdDial), (0x13, .cmdHangUp),
   (0x14, .cmdWaitForCall), (0x15, .cmdTransferData), (0x16, .cmdReset), (0x17, .cmdTelephoneStatus),
   (0x18, .cmdSio32Mode), (0x19, .cmdReadConfig), (0x1A, .cmdWriteConfig), (0x1F, .cmdTransferDataEnd),
   (0x21, .cmdIspLogin), (0x22, .cmdIspLogout), (0x23, .cmdOpenTcp), (0x24, .cmdCloseTcp),
   (0x25, .cmdOpenUdp), (0x26, .cmdCloseUdp), (0x28, .cmdDnsQuery), (0x3F, .cmdFirmwareVersion),
   (0x6E, .cmdError)]

/-- Decoding a command id and its payload (R102, R214). -/
def decodeCommand (id : Byte) (payload : List Byte) : Except Reject Instr :=
  if payload.length ≤ maxPayload then
    match commandTable.find? (fun row => row.1 == id) with
    | some row => .ok (row.2 payload)
    | none => .error (.unlistedCommand id)
  else .error (.payloadTooLong payload.length)

/-- The decoder, total on every code. -/
def decode : Code → Except Reject Instr
  | .request q => decodeRequest q
  | .record r => .ok (decodeRecord r)
  | .command id payload => decodeCommand id payload

/-! ## The encoder -/

/-- The code of a well-formed instruction (R82 to R85, R104, R89 to R96, R102). -/
def encode : Instr → Code
  | .encode cmd len => .request (requestWord 0x01 cmd len 0 0)
  | .parse off n => .request (requestWord 0x02 0 0 0 (off ++ n))
  | .xfer b => .request (requestWord 0x10 b 0 0 0)
  | .advance dt => .request (requestWord 0x11 0 0 0 dt)
  | .tsync => .request (requestWord 0x11 0 0 0 0)
  | .poll => .request (requestWord 0x10 0x4B 0 0 0)
  | .eoc => .request (requestWord 0x10 0x80 0 0 0)
  | .pad => .request (requestWord 0x10 0x00 0 0 0)
  | .recVersion b c d ts => .record (mkRecord 0x01 b c d ts)
  | .recJoypad b c d ts => .record (mkRecord 0x65 b c d ts)
  | .recXferReq b c d ts => .record (mkRecord 0x68 b c d ts)
  | .recXferReply b c d ts => .record (mkRecord 0x69 b c d ts)
  | .recTimeSync b c d ts => .record (mkRecord 0x6A b c d ts)
  | .recStatus b c d ts => .record (mkRecord 0x6C b c d ts)
  | .recDisconnectReq b c d ts => .record (mkRecord 0x6D b c d ts)
  | .recUnknown code b c d ts => .record (mkRecord code b c d ts)
  | .cmdBeginSession p => .command 0x10 p
  | .cmdEndSession p => .command 0x11 p
  | .cmdDial p => .command 0x12 p
  | .cmdHangUp p => .command 0x13 p
  | .cmdWaitForCall p => .command 0x14 p
  | .cmdTransferData p => .command 0x15 p
  | .cmdReset p => .command 0x16 p
  | .cmdTelephoneStatus p => .command 0x17 p
  | .cmdSio32Mode p => .command 0x18 p
  | .cmdReadConfig p => .command 0x19 p
  | .cmdWriteConfig p => .command 0x1A p
  | .cmdTransferDataEnd p => .command 0x1F p
  | .cmdIspLogin p => .command 0x21 p
  | .cmdIspLogout p => .command 0x22 p
  | .cmdOpenTcp p => .command 0x23 p
  | .cmdCloseTcp p => .command 0x24 p
  | .cmdOpenUdp p => .command 0x25 p
  | .cmdCloseUdp p => .command 0x26 p
  | .cmdDnsQuery p => .command 0x28 p
  | .cmdFirmwareVersion p => .command 0x3F p
  | .cmdError p => .command 0x6E p

/-! ## The table's own numbering of an instruction's bits -/

/-- The code of a row's bits as spec/opcode_table.json numbers them. A row of one byte is a record's event code or
a command id: a byte of the list of R102 is that command with an empty payload, every other byte is the first byte
of a record whose other bytes are 0 (the two lists share no byte). A longer row is a request word, a parallel word
without byte order (R65, R80). DESIGN CHOICE, safe: log entry 19. -/
def tableCode (nbits w : Nat) : Code :=
  if nbits ≤ 8 then
    if (commandTable.find? (fun row => row.1 == BitVec.ofNat 8 w)).isSome then .command (BitVec.ofNat 8 w) []
    else .record (mkRecord (BitVec.ofNat 8 w) 0 0 0 0)
  else .request (BitVec.ofNat 64 w)

/-- The instruction the decoder reads from a row's bits. -/
def decodeTableWord (nbits w : Nat) : Option Instr :=
  match decode (tableCode nbits w) with
  | .ok i => some i
  | .error _ => none

end Sys2Proof
end

