-- ==== Sys2Proof/Config.lean ====
section
/-! DEFINITION. What an implementation fixes (the named parameters of 00_scope.md R10) and the free values (what
the spec lets be any value). A free value is an opaque constant: nothing in Lean can evaluate it. -/

namespace Sys2Proof

/-- The named parameters of R10. The machine carries them as plain data, so that a statement about every state is
a statement about every parameter value; no step changes them. -/
structure Params where
  /-- `TS_RES`, timestamp ticks per second -/
  tsRes : Nat
  /-- `IBUF_SIZE`, bytes of the input buffer -/
  ibufSize : Nat
  /-- `CTRL_REQ`, the control-flag byte of an emitted data-exchange request -/
  ctrlReq : Byte
  /-- `XFER_TIMEOUT`; `none` is `NONE`, wait forever -/
  xferTimeout : Option Nat
  /-- `RXQ_DEPTH`, capacity of the receive record queue -/
  rxqDepth : Nat
  deriving DecidableEq, Repr

/-- The legal values of R10. -/
abbrev Params.Legal (p : Params) : Prop :=
  1 ≤ p.tsRes ∧ 265 ≤ p.ibufSize ∧ p.ibufSize ≤ 65535 ∧ p.xferTimeout ≠ some 0 ∧ 1 ≤ p.rxqDepth

/-- `TS_RES - 1` of the machine that leaves reset (R10: OPEN). -/
opaque Config.tsResLess1 : Nat

/-- `IBUF_SIZE - 265` of the machine that leaves reset (R10: OPEN, 265 to 65535). -/
opaque Config.ibufBeyond265 : Fin 65271

/-- `CTRL_REQ` of the machine that leaves reset (R10: OPEN). -/
opaque Config.ctrlReq : Byte

/-- `RXQ_DEPTH - 1` of the machine that leaves reset (R10: OPEN). -/
opaque Config.rxqDepthLess1 : Nat

/-- The parameters of the machine that leaves reset: four are free within their legal range, and `XFER_TIMEOUT` is
`NONE`, the value the spec takes (R10, R297). A statement about every state covers every other timeout too. DESIGN
CHOICE, safe: log entry 8. -/
def Config.params : Params where
  tsRes := Config.tsResLess1 + 1
  ibufSize := 265 + Config.ibufBeyond265.val
  ctrlReq := Config.ctrlReq
  xferTimeout := none
  rxqDepth := Config.rxqDepthLess1 + 1

/-- The byte a HOST read of a buffer byte that nobody has written returns, at the k-th such read: any value
(20_memory.md R61, 93_implementation_defined.md I14). DESIGN CHOICE, safe: log entry 9. -/
opaque Config.unwrittenByte : Nat → Byte

/-- The `dt` that the host offers, at the k-th free draw, for a number of seconds whose `floor(seconds × TS_RES)` does
not fit the 32-bit operand of ADVANCE: any value (30_encoding.md R85, 91_not_in_source.md N20). DESIGN CHOICE, safe: log
entry 24. -/
opaque Config.longAdvance : Nat → Word

end Sys2Proof
end

