-- ==== Sys2Proof/Machine/State.lean ====
section
/-! DEFINITION. The state of the FCBX model as plain data: the block's own state (10_state.md R20), its output
histories (R290), the host layer's state (R33, R34, 45_host_protocol.md), the peer, the wall clock and the
scheduler's choices (00_scope.md R8), with the faults, the refusals and the state after reset. -/

namespace Sys2Proof.Machine

/-! ## The block's own types -/

/-- The link state (10_state.md R21). -/
inductive LinkState where
  | listening
  | handshaking
  | ready
  | failed
  | closed
  deriving DecidableEq, Repr

/-- The status codes (30_encoding.md R88). -/
inductive Status where
  | ok
  | noMatch
  | incomplete
  | badRequest
  | notReady
  | linkLost
  | timeout
  deriving DecidableEq, Repr

/-- The pending-byte slot (10_state.md R23). -/
structure Pend where
  /-- 1 while an XFER has sent its request record and has not completed -/
  valid : Bool
  /-- the byte the XFER sent -/
  tx : Byte
  /-- the timestamp the sent record carries -/
  ts : Stamp
  /-- what `Now()` returned when the record was sent -/
  t0 : DWord
  deriving DecidableEq, Repr

/-- The result registers of PARSE, written all together (10_state.md R30). -/
structure ParseRegs where
  /-- `P_FIND`: bit 0 `CSUM_MISMATCH`, bit 1 `RESERVED_NONZERO` (R31) -/
  find : BitVec 2
  /-- `P_CMD` -/
  cmd : Byte
  /-- `P_R1` -/
  r1 : Byte
  /-- `P_R2` -/
  r2 : Byte
  /-- `P_LEN` -/
  len : Byte
  /-- `P_CSUM_CALC` -/
  csumCalc : Half
  /-- `P_CSUM_RX` -/
  csumRx : Half
  /-- `P_DEV` -/
  dev : Byte
  /-- `P_ACK` -/
  ack : Byte
  /-- `P_CONSUMED` -/
  consumed : Half
  /-- `P_PBASE` -/
  pbase : Half
  deriving DecidableEq, Repr

/-- The three byte buffers (20_memory.md R60). -/
inductive Space where
  | pbuf
  | obuf
  | ibuf
  deriving DecidableEq, Repr

/-- A buffer: the written bytes by index, indices strictly rising. A byte nobody has written since reset has no
value and no entry (20_memory.md R61). DESIGN CHOICE, safe: log entry 15. -/
abbrev Mem := List Host.Cell

/-- The kinds of log entry (60_exceptions.md R268). -/
inductive LogKind where
  | handshakeMismatch
  | unexpectedEvent
  | unknownEvent
  | linkLost
  | timeout
  deriving DecidableEq, Repr

/-- One entry of the log port (R268). -/
structure LogEntry where
  kind : LogKind
  value : Word
  deriving DecidableEq, Repr

/-! ## The peer and the scheduler -/

/-- A step of the peer (20_memory.md R62, 41_byte_exchange.md R164, R186, R187). -/
inductive PeerOp where
  /-- `PeerConnect` -/
  | connect
  /-- `PeerPush(rec)` -/
  | push (r : Record)
  /-- `PeerLost` -/
  | lost
  deriving DecidableEq, Repr

/-- What the scheduler lets happen next (00_scope.md R8, 60_exceptions.md R270). A turn whose agent has no enabled
step changes nothing but the schedule. DESIGN CHOICE, safe: log entry 4. -/
inductive Turn where
  /-- the host takes its next step -/
  | host
  /-- the peer takes its next step -/
  | peer
  /-- the wall clock reaches tick `t`, unless it is past it (41_byte_exchange.md R161) -/
  | tick (t : DWord)
  /-- the core processes the record at the head of the receive queue (R167) -/
  | receive
  /-- the core takes the timeout step of a pending XFER (R175) -/
  | timeout
  /-- the reset input is taken (70_reset_and_hazards.md R291) -/
  | reset
  deriving DecidableEq, Repr

/-! ## The host layer -/

/-- One step of a host program (30_encoding.md R105, 45_host_protocol.md R210, R222). -/
inductive HostOp where
  /-- offer a request word, legal or not -/
  | request (q : DWord)
  /-- offer `ADVANCE floor(seconds × TS_RES)` for `seconds = num / (denLess1 + 1)` (30_encoding.md R85) -/
  | advanceTime (num denLess1 : Nat)
  /-- `WRP i: …`, write bytes to `PBUF[i..]` -/
  | writePbuf (i : Nat) (bytes : List Byte)
  /-- `WRI i: …`, write bytes to `IBUF[i..]` -/
  | writeIbuf (i : Nat) (bytes : List Byte)
  /-- `RD`, read one word of the register read port -/
  | readReg (index : Byte)
  /-- read one byte of a buffer -/
  | readByte (space : Space) (i : Nat)
  /-- call the session driver's `transfer(command, payload)` (R214), for id 0x15 by its wrapper (DESIGN CHOICE: log
  entry 25) -/
  | command (id : Byte) (payload : List Byte)
  /-- `set_transfer_no_response` (R213) -/
  | setTransferNoResponse
  /-- create the Session object anew (10_state.md R33) -/
  | newSession
  /-- scan a recorded trace, one pair of bytes a time step, the initiator's first (R230) -/
  | scan (trace : List (Byte × Byte))
  deriving DecidableEq, Repr

/-- What the host has read, in order. -/
inductive HostSeen where
  | reg (index : Byte) (value : Word)
  | byte (space : Space) (i : Nat) (value : Byte)
  deriving DecidableEq, Repr

/-- The Session object (10_state.md R33). -/
structure Session where
  localDeviceId : Option Byte
  peerDeviceId : Option Byte
  transferNoResponse : Bool
  deriving DecidableEq, Repr

/-- Where the session driver stands in a command exchange (45_host_protocol.md R214 to R217). -/
inductive DriverPhase where
  /-- step 1: `TSYNC` -/
  | tsync
  /-- step 2: write the payload to `PBUF` -/
  | load
  /-- step 2: `ENCODE cmd, L` -/
  | encode
  /-- step 2: `XFER OBUF[k]` -/
  | frame (k : Nat)
  /-- step 3: `EOC` -/
  | eoc
  /-- step 3: `PAD` -/
  | pad
  /-- step 5: poll for 0x99 -/
  | magic1
  /-- step 5: poll for 0x66 -/
  | magic2
  /-- step 6: poll for a header byte -/
  | header
  /-- step 6: poll for a payload byte -/
  | body
  /-- step 6: poll for the high checksum byte -/
  | csumHi
  /-- step 6: poll for the low checksum byte -/
  | csumLo
  /-- step 7: `EOC` -/
  | confirmEoc
  /-- step 7: `XFER (h[0] xor 0x80)` -/
  | confirm
  deriving DecidableEq, Repr

/-- A call of the session driver in progress (R214 to R218). -/
structure DriverRun where
  cmd : Byte
  payload : List Byte
  phase : DriverPhase
  /-- a request of this phase has been issued and its response is not yet taken -/
  waiting : Bool
  /-- `h[0..]`, the header bytes pulled so far -/
  header : List Byte
  /-- `q[0..]`, the payload bytes pulled so far -/
  body : List Byte
  /-- `c_hi` -/
  csumHi : Byte
  deriving DecidableEq, Repr

/-- Why a call of the driver failed (R219, 60_exceptions.md R269). -/
inductive Failure where
  | linkProtocolViolation
  | checksumMismatch
  | commandMismatch
  /-- a block request of the exchange ended with this status, not `OK` -/
  | request (st : Status)
  deriving DecidableEq, Repr

/-- How a call of the driver ended (R214 step 4, R218, R219). -/
inductive CallResult where
  /-- step 8: the reply payload without its first byte -/
  | reply (payload : List Byte)
  /-- step 4: acknowledged, never answered with a frame -/
  | noReply
  | failed (kind : Failure)
  deriving DecidableEq, Repr

/-- The finding of the device-identity latch (R211). -/
structure Drift where
  learned : Byte
  seen : Byte
  deriving DecidableEq, Repr

/-- `SenderIsA` or `SenderIsB` (R232). -/
inductive Sender where
  | a
  | b
  deriving DecidableEq, Repr

/-- What the scan emits (R233, R235). -/
inductive ScanItem where
  | frame (cmd : Byte) (sender : Sender) (offset : Nat)
  | reservedFieldAnomaly
  | checksumMismatch (expected actual : Half)
  | deviceIdentityDrift (learned seen : Byte)
  | sendAckNonZero (actual : Byte)
  | receiveAckMismatch (expected actual : Byte)
  | incomplete (offset : Nat) (sender : Sender)
  deriving DecidableEq, Repr

/-- Where the trace analyzer stands in one iteration of its scan (R230, R231). -/
inductive ScanPhase where
  /-- look for a magic at the index -/
  | seek
  /-- write the window of the sender's bytes to `IBUF` -/
  | load (sender : Sender)
  /-- issue `PARSE 0, n` -/
  | issue (sender : Sender)
  /-- take the response and report -/
  | report (sender : Sender)
  deriving DecidableEq, Repr

/-- The scan state of the trace analyzer (10_state.md R34). -/
structure ScanRun where
  /-- the arrays `A` and `B`, a pair of bytes for each time step -/
  trace : List (Byte × Byte)
  /-- the scan index -/
  i : Nat
  learnedA : Option Byte
  learnedB : Option Byte
  /-- the report so far, in order -/
  report : List ScanItem
  phase : ScanPhase
  deriving DecidableEq, Repr

/-- The host agent: its program, the Session object, the driver call or the scan in progress, and what it has
seen and reported (R4, R33, R34). -/
structure HostState where
  /-- the host's remaining program -/
  queue : List HostOp
  session : Session
  driver : Option DriverRun
  scan : Option ScanRun
  /-- the driver's findings, in order (R212) -/
  findings : List Drift
  /-- the results of the driver's calls, in order -/
  results : List CallResult
  /-- the finished scans as they ended, in order, with their reports and learned ids -/
  scans : List ScanRun
  /-- what the host has read, in order -/
  seen : List HostSeen
  deriving DecidableEq, Repr

/-! ## Faults and refusals -/

/-- Why the model stops with a fault. All three are safe: where the model stops, nothing is proved about what the
hardware does. -/
inductive Fault where
  /-- `UNWRITTEN_READ` (60_exceptions.md R266): ENCODE or PARSE reads a buffer byte nobody has written since reset.
  Safe. -/
  | unwrittenRead
  /-- `HOST_HAZARD` (R266, 20_memory.md R76): the host, its driver or its trace analyzer writes `PBUF` or `IBUF`
  while a request is outstanding. Safe. -/
  | hostHazard
  /-- A host access to an index the buffer does not have (20_memory.md R60). DESIGN CHOICE, safe: log entry 6. -/
  | noSuchByte
  deriving DecidableEq, Repr

/-- Why the model refuses. All are safe: the model answers nothing. -/
inductive Refusal where
  /-- `exec`'s arm for an instruction without a meaning. No arm raises it. Safe. -/
  | notModelled (mnemonic : String)
  /-- A call of the driver with a payload of more than 255 bytes, which no frame can carry and which R214 excludes
  (`L = len(p) ≤ 255`). DESIGN CHOICE, safe: log entry 12. -/
  | payloadTooLong (len : Nat)
  deriving DecidableEq, Repr

/-! ## The state -/

/-- The machine's state. -/
structure State where
  /-- the named parameters (00_scope.md R10); no step changes them -/
  params : Params
  /-- `LSTATE` (10_state.md R21) -/
  lstate : LinkState
  /-- `TIME_OFFSET` (R22) -/
  timeOffset : DWord
  /-- `PEND` (R23); the request port is busy exactly while `pend.valid` (30_encoding.md R86) -/
  pend : Pend
  /-- `RXQ`, the head first (R24) -/
  rxq : List Record
  /-- `LAST_STATUS` (R27) -/
  lastStatus : Byte
  /-- `X_RX` (R28) -/
  xRx : Byte
  /-- `X_TS` (R28) -/
  xTs : Stamp
  /-- `E_LEN` (R29) -/
  eLen : Half
  /-- `E_CSUM` (R29) -/
  eCsum : Half
  /-- `P_FIND` to `P_PBASE` (R30) -/
  parse : ParseRegs
  /-- `PBUF` (20_memory.md R60) -/
  pbuf : Mem
  /-- `OBUF` -/
  obuf : Mem
  /-- `IBUF` -/
  ibuf : Mem
  /-- the response port: the status that ended the last accepted request, none while it is outstanding
  (30_encoding.md R86, R88). DESIGN CHOICE, safe: log entry 13 -/
  response : Option Status
  /-- the transmit history, oldest first (41_byte_exchange.md R163) -/
  txHist : List Record
  /-- the log history, oldest first (60_exceptions.md R268) -/
  logHist : List LogEntry
  /-- the response history, oldest first (70_reset_and_hazards.md R290, R298) -/
  respHist : List Status
  /-- the wall clock's tick count, which `Now()` returns (41_byte_exchange.md R161) -/
  clock : DWord
  /-- how many free values the host has drawn: reads of unwritten bytes, and advances too long for the operand (log
  entries 9 and 24) -/
  freeDraws : Nat
  /-- the peer's remaining steps -/
  peer : List PeerOp
  /-- the host layer -/
  host : HostState
  /-- the scheduler's remaining choices -/
  script : List Turn
  deriving DecidableEq, Repr

/-- An empty pending-byte slot (R23). -/
def Pend.empty : Pend := ⟨false, 0, 0, 0⟩

/-- The PARSE registers after reset, all 0 (R30). -/
def ParseRegs.zero : ParseRegs := ⟨0, 0, 0, 0, 0, 0, 0, 0, 0, 0, 0⟩

/-- A Session object at its creation (R33). -/
def Session.new : Session := ⟨none, none, false⟩

/-- A host with no program. -/
def HostState.idle : HostState := ⟨[], Session.new, none, none, [], [], [], []⟩

/-- The machine after reset (70_reset_and_hazards.md R290): the registers as the table there says, every buffer
byte unwritten, the histories empty. The parameters are those of `Config` (log entry 8), the wall clock stands at 0
(R290: any value; the first tick may take it anywhere; DESIGN CHOICE, unsafe: log entry 5), and host, peer and scheduler
have nothing to do (DESIGN CHOICE, unsafe: log entry 22). -/
def State.reset : State where
  params := Config.params
  lstate := .listening
  timeOffset := 0
  pend := Pend.empty
  rxq := []
  lastStatus := 0x00
  xRx := 0
  xTs := 0
  eLen := 0
  eCsum := 0
  parse := ParseRegs.zero
  pbuf := []
  obuf := []
  ibuf := []
  response := none
  txHist := []
  logHist := []
  respHist := []
  clock := 0
  freeDraws := 0
  peer := []
  host := HostState.idle
  script := []

end Sys2Proof.Machine
end

