-- ==== Sys2Proof/Machine/Ops.lean ====
section
/-! DEFINITION. The named operations of the machine: buffers, the codes of the enumerations, the response port, the
log and transmit streams, the receive queue, the wall clock, the register read port, reset, and the steps of the
peer. The block has no trap: every abnormal outcome is a status code or a log entry (60_exceptions.md R260, R272),
so ending a request (`respond`, `raise`) stands here in the place of exception entry, and there is no return. -/

namespace Sys2Proof.Machine

/-- What a meaning answers. -/
abbrev Result := Host.Outcome State Fault Refusal

/-! ## Buffers (20_memory.md R60, R61, R66) -/

/-- `S[i]`: the byte at an index, none where nobody has written it since reset. -/
def Mem.byte : Mem → Nat → Option Byte
  | [], _ => none
  | (a, b) :: m, i => if a = i then some b else Mem.byte m i

/-- Writing one byte, which keeps the indices strictly rising. -/
def Mem.setByte : Mem → Nat → Byte → Mem
  | [], i, v => [(i, v)]
  | (a, b) :: m, i, v =>
    if i < a then (i, v) :: (a, b) :: m
    else if i = a then (i, v) :: m
    else (a, b) :: Mem.setByte m i v

/-- `MemRead(S, i, n)` (00_scope.md R13): `n` bytes from index `i` upward, none if one of them is unwritten. -/
def Mem.bytes (m : Mem) : Nat → Nat → Option (List Byte)
  | _, 0 => some []
  | i, n + 1 =>
    match m.byte i, Mem.bytes m (i + 1) n with
    | some b, some bs => some (b :: bs)
    | _, _ => none

/-- `MemWrite(S, i, n, v)` (R13). -/
def Mem.setBytes (m : Mem) : Nat → List Byte → Mem
  | _, [] => m
  | i, b :: bs => Mem.setBytes (m.setByte i b) (i + 1) bs

/-- The canonical form: the indices rise strictly. -/
abbrev Mem.wf (m : Mem) : Prop := m.Pairwise (fun c d => c.1 < d.1)

/-- Every written index is one of the buffer's `size` indices. -/
abbrev Mem.within (m : Mem) (size : Nat) : Prop := ∀ c ∈ m, c.1 < size

/-- The sizes of the buffers (R60, R61). -/
def spaceSize (p : Params) : Space → Nat
  | .pbuf => 256
  | .obuf => 263
  | .ibuf => p.ibufSize

/-- The contents of a buffer. -/
def bufferOf (s : State) : Space → Mem
  | .pbuf => s.pbuf
  | .obuf => s.obuf
  | .ibuf => s.ibuf

/-! ## The numeric codes of the enumerations -/

/-- The value of `LSTATE` on the read port (10_state.md R21). -/
def LinkState.code : LinkState → BitVec 3
  | .listening => 0
  | .handshaking => 1
  | .ready => 2
  | .failed => 3
  | .closed => 4

/-- The status codes (30_encoding.md R88). -/
def Status.code : Status → Byte
  | .ok => 0x00
  | .noMatch => 0x01
  | .incomplete => 0x02
  | .badRequest => 0x10
  | .notReady => 0x11
  | .linkLost => 0x20
  | .timeout => 0x21

/-- The kind codes of the log port (60_exceptions.md R268). -/
def LogKind.code : LogKind → Byte
  | .handshakeMismatch => 0x01
  | .unexpectedEvent => 0x02
  | .unknownEvent => 0x03
  | .linkLost => 0x04
  | .timeout => 0x05

/-! ## The request port (30_encoding.md R86, R88) -/

/-- Taking a request off the port: it is outstanding from here until its response. -/
def accept (s : State) : State := { s with response := none }

/-- `respond(status)` (00_scope.md R13): the status code goes to the response port and to `LAST_STATUS`, which ends
the outstanding request. -/
def respond (st : Status) (s : State) : State :=
  { s with lastStatus := st.code, response := some st, respHist := s.respHist ++ [st] }

/-- `raise <Status>` (R13): respond and end the rule's pseudocode. -/
def raise (st : Status) (s : State) : Result := .next (respond st s)

/-- A request runs only when none is outstanding; while one is, the port holds it and nothing happens (R86; DESIGN
CHOICE, safe: log entry 17). -/
def onPort (run : State → Result) (s : State) : Result :=
  if s.pend.valid then .next s else run (accept s)

/-- An illegal request word: `BAD_REQUEST`, and no other effect (R87). -/
def illegalRequest (s : State) : Result := onPort (raise .badRequest) s

/-! ## Output streams, receive queue and clock -/

/-- `Send(rec)` (41_byte_exchange.md R163). -/
def send (r : Record) (s : State) : State := { s with txHist := s.txHist ++ [r] }

/-- `Log(kind, value)` (60_exceptions.md R268). -/
def logEvent (kind : LogKind) (value : Word) (s : State) : State := { s with logHist := s.logHist ++ [⟨kind, value⟩] }

/-- `RxPop()` (10_state.md R25). -/
def rxPop (s : State) : State := { s with rxq := s.rxq.tail }

/-- Whether the core processes the head of the receive queue (41_byte_exchange.md R167). -/
def receiving (s : State) : Bool :=
  match s.lstate with
  | .handshaking => true
  | .ready => s.pend.valid
  | _ => false

/-- `Now()` (R161): the wall clock's tick count. -/
def now (s : State) : DWord := s.clock

/-- The wall clock reaches tick `t`; it never goes back (R161). -/
def tick (t : DWord) (s : State) : State := if s.clock ≤ t then { s with clock := t } else s

/-! ## The register read port (10_state.md R32) -/

/-- The 32-bit word at an index of the read port; an index not listed reads 0. That the occupancy is reduced mod 2^16
is DEDUCED from R12 (log entry 14). -/
def readPort (s : State) (index : Byte) : Word :=
  match index.toNat with
  | 0x00 => s.lstate.code.setWidth 32
  | 0x01 => s.lastStatus.setWidth 32
  | 0x02 => s.timeOffset.extractLsb' 0 32
  | 0x03 => s.timeOffset.extractLsb' 32 32
  | 0x04 => (s.pend.tx ++ 0#7 ++ BitVec.ofBool s.pend.valid).setWidth 32
  | 0x05 => s.xRx.setWidth 32
  | 0x06 => s.xTs.setWidth 32
  | 0x07 => s.eLen.setWidth 32
  | 0x08 => s.eCsum.setWidth 32
  | 0x09 => s.parse.find.setWidth 32
  | 0x0A => s.parse.cmd.setWidth 32
  | 0x0B => s.parse.r1.setWidth 32
  | 0x0C => s.parse.r2.setWidth 32
  | 0x0D => s.parse.len.setWidth 32
  | 0x0E => s.parse.csumCalc.setWidth 32
  | 0x0F => s.parse.csumRx.setWidth 32
  | 0x10 => s.parse.dev.setWidth 32
  | 0x11 => s.parse.ack.setWidth 32
  | 0x12 => s.parse.consumed.setWidth 32
  | 0x13 => s.parse.pbase.setWidth 32
  | 0x14 => (BitVec.ofNat 16 s.rxq.length).setWidth 32
  | _ => 0

/-! ## Host access to the buffers (20_memory.md R60, R61, R76) -/

/-- A host write to `PBUF` or `IBUF`: `HOST_HAZARD` while a request is outstanding, and a fault past the buffer's
end. `OBUF` is read-only to the host, and no host step writes it. -/
def hostWrite (space : Space) (i : Nat) (bytes : List Byte) (s : State) : Result :=
  if s.pend.valid then .fault .hostHazard
  else if i + bytes.length > spaceSize s.params space then .fault .noSuchByte
  else
    match space with
    | .pbuf => .next { s with pbuf := s.pbuf.setBytes i bytes }
    | .ibuf => .next { s with ibuf := s.ibuf.setBytes i bytes }
    | .obuf => .fault .noSuchByte

/-- What a host read of a buffer byte returns: the byte written there, or any value (R61). -/
def hostByte (s : State) (space : Space) (i : Nat) : Byte :=
  match (bufferOf s space).byte i with
  | some b => b
  | none => Config.unwrittenByte s.freeDraws

/-- The state after a host read of a buffer byte: a read changes nothing of the block (R69); one of an unwritten
byte uses up a free value. -/
def afterHostRead (s : State) (space : Space) (i : Nat) : State :=
  match (bufferOf s space).byte i with
  | some _ => s
  | none => { s with freeDraws := s.freeDraws + 1 }

/-! ## The peer's steps -/

/-- A peer step where it is enabled, none where it is not (10_state.md R25, 41_byte_exchange.md R164, R165, R187). -/
def peerStep (op : PeerOp) (s : State) : Option State :=
  match op with
  | .connect => if s.lstate = .listening then some { s with lstate := .handshaking } else none
  | .push r =>
    if (s.lstate = .handshaking ∨ s.lstate = .ready) ∧ s.rxq.length < s.params.rxqDepth then
      some { s with rxq := s.rxq ++ [r] }
    else none
  | .lost =>
    if s.lstate = .handshaking ∨ s.lstate = .ready then
      let dropped := logEvent .linkLost 0 { s with lstate := .closed, rxq := [] }
      some (if s.pend.valid then respond .linkLost { dropped with pend := { s.pend with valid := false } } else dropped)
    else none

/-- The peer's turn: it takes its next step if that is enabled, and waits if it is not (R25). -/
def peerTurn (s : State) : State :=
  match s.peer with
  | [] => s
  | op :: rest => (peerStep op { s with peer := rest }).getD s

/-! ## The XFER timeout (41_byte_exchange.md R175) -/

/-- The timeout step of a pending XFER; it exists only where `XFER_TIMEOUT` is not `NONE`. -/
def timeoutStep (s : State) : State :=
  match s.params.xferTimeout with
  | none => s
  | some limit =>
    if s.lstate = .ready ∧ s.pend.valid = true ∧ s.pend.t0.toNat + limit ≤ (now s).toNat then
      respond .timeout (logEvent .timeout (s.pend.tx.setWidth 32)
        { s with pend := { s.pend with valid := false }, lstate := .closed })
    else s

/-! ## Reset during a run (70_reset_and_hazards.md R290, R291) -/

/-- Taking reset: an outstanding request ends with no response, the connection and the queue are gone, and every
piece of block state has its reset value. The parameters, the wall clock and the other agents are not the block's
(DEDUCED: log entry 16). -/
def blockReset (s : State) : State :=
  { State.reset with
    params := s.params, clock := s.clock, freeDraws := s.freeDraws, peer := s.peer, host := s.host, script := s.script }

end Sys2Proof.Machine
end

