-- ==== Sys2Proof/Machine/Flags.lean ====
section
/-! DEFINITION. The block's one flag register, `P_FIND` (10_state.md R31): how PARSE computes its two bits. -/

namespace Sys2Proof.Machine

/-- Bit 0, `CSUM_MISMATCH`: set exactly when the computed and the transmitted checksum differ (40_frame_codec.md
R129). -/
def csumMismatch (computed rx : Half) : Bool := computed != rx

/-- Bit 1, `RESERVED_NONZERO`: set exactly when a reserved byte is non-zero (R130). -/
def reservedNonzero (r1 r2 : Byte) : Bool := r1 != 0 || r2 != 0

/-- `P_FIND` (R31, R123): the two findings are independent (60_exceptions.md R270). -/
def findings (r1 r2 : Byte) (computed rx : Half) : BitVec 2 :=
  BitVec.ofBool (reservedNonzero r1 r2) ++ BitVec.ofBool (csumMismatch computed rx)

end Sys2Proof.Machine
end

