-- ==== Sys2Proof/Machine/Operands.lean ====
section
/-! DEFINITION. The operand forms of the machine: the checksum, the frame that ENCODE writes, the frame that PARSE
reads, the timestamp, and the records the block builds. -/

namespace Sys2Proof.Machine

/-! ## The checksum (40_frame_codec.md R120) -/

/-- `CSUM(c, r1, r2, L, p)`: the sum of the window's bytes mod 65536. -/
def csum (c r1 r2 len : Byte) (payload : List Byte) : Half :=
  BitVec.ofNat 16 (c.toNat + r1.toNat + r2.toNat + len.toNat + (payload.map BitVec.toNat).sum)

/-- The high byte of a checksum, which crosses the wire first (20_memory.md R63). -/
def csumHi (c : Half) : Byte := c.extractLsb' 8 8

/-- The low byte of a checksum (R63). -/
def csumLo (c : Half) : Byte := c.extractLsb' 0 8

/-- The checksum two wire bytes transmit, the first in bits 15:8 (R63). -/
def csumOfBytes (hi lo : Byte) : Half := hi ++ lo

/-! ## Frames (30_encoding.md R97, R98, 40_frame_codec.md R122 to R132) -/

/-- The magic marker (R97, R125). -/
def magic : List Byte := [0x99, 0x66]

/-- The `8 + L` bytes that ENCODE emits (R98, R122). -/
def encodedFrame (cmd len : Byte) (payload : List Byte) : List Byte :=
  magic ++ [cmd, 0x00, 0x00, len] ++ payload
    ++ [csumHi (csum cmd 0 0 len payload), csumLo (csum cmd 0 0 len payload)]

/-- What PARSE finds. -/
inductive ParseOutcome where
  /-- it ends with a status that writes no register -/
  | ends (st : Status)
  /-- it matches a complete frame, with these registers -/
  | frame (regs : ParseRegs)
  /-- it reaches a byte nobody has written since reset -/
  | unwritten
  deriving DecidableEq, Repr

/-- The registers of a complete frame at `o` with length byte `len` (10_state.md R30, 40_frame_codec.md R123, R129
to R132); none if a byte of it is unwritten. -/
def parseFields (m : Mem) (o : Nat) (len : Byte) : Option ParseRegs := do
  let cmd ← m.byte (o + 2)
  let r1 ← m.byte (o + 3)
  let r2 ← m.byte (o + 4)
  let payload ← m.bytes (o + 6) len.toNat
  let hi ← m.byte (o + 6 + len.toNat)
  let lo ← m.byte (o + 7 + len.toNat)
  let dev ← m.byte (o + 8 + len.toNat)
  let ack ← m.byte (o + 9 + len.toNat)
  let computed := csum cmd r1 r2 len payload
  let rx := csumOfBytes hi lo
  some { find := findings r1 r2 computed rx, cmd := cmd, r1 := r1, r2 := r2, len := len, csumCalc := computed, csumRx := rx,
         dev := dev, ack := ack, consumed := BitVec.ofNat 16 (10 + len.toNat), pbase := BitVec.ofNat 16 (o + 6) }

/-- From the length parser on (R127, R128): the magic and the header lie inside the supplied bytes. -/
def parseBody (m : Mem) (o n : Nat) : ParseOutcome :=
  match m.byte (o + 5) with
  | none => .unwritten
  | some len =>
    if o + 10 + len.toNat > n then .ends .incomplete
    else
      match parseFields m o len with
      | none => .unwritten
      | some regs => .frame regs

/-- `PARSE o, n` over a buffer of `size` bytes (R123): the bounds check (R124), the magic detector, which looks at
both bytes at the offset (R125; that it reads both first is DEDUCED, safe: log entry 7), header availability (R126),
and the rest. -/
def parseAt (size : Nat) (m : Mem) (o n : Nat) : ParseOutcome :=
  if n > size ∨ o > n then .ends .badRequest
  else if o + 2 > n then .ends .noMatch
  else
    match m.bytes o 2 with
    | none => .unwritten
    | some two =>
      if two ≠ magic then .ends .noMatch
      else if o + 6 > n then .ends .incomplete
      else parseBody m o n

/-! ## Timestamps and records (41_byte_exchange.md R162, R163, 30_encoding.md R91 to R94) -/

/-- `ts = (Now() + TIME_OFFSET) mod 2^31` (R162). -/
def stampOf (now offset : DWord) : Stamp := BitVec.ofNat 31 (now.toNat + offset.toNat)

/-- A record the block builds: bit 31 of its timestamp field is 0 (R162, R163). -/
def stampedRecord (code b c d : Byte) (ts : Stamp) : Record := mkRecord code b c d (ts.setWidth 32)

/-- The data-exchange request that XFER sends (R92). -/
def xferRequest (b ctrl : Byte) (ts : Stamp) : Record := stampedRecord 0x68 b ctrl 0x00 ts

/-- The time-sync record that ADVANCE sends (R94). -/
def timeSync (ts : Stamp) : Record := stampedRecord 0x6A 0x00 0x00 0x00 ts

/-- Whether a record is the version/capability record of the handshake; its timestamp is not checked (R91, R166). -/
def isVersionRecord (r : Record) : Bool :=
  r.code == 0x01 && r.fieldB == 0x01 && r.fieldC == 0x04 && r.fieldD == 0x00

/-- `{rec[0], rec[1], rec[2], rec[3]}`, `rec[0]` in bits 31:24 (60_exceptions.md R268). -/
def leadingBytes (r : Record) : Word := r.code ++ r.fieldB ++ r.fieldC ++ r.fieldD

/-- `floor(seconds × TS_RES)` for `seconds = num / (denLess1 + 1)` (30_encoding.md R85; DESIGN CHOICE, safe: log entry
21). -/
def ticksOfSeconds (tsRes num denLess1 : Nat) : Nat := num * tsRes / (denLess1 + 1)

end Sys2Proof.Machine
end

