-- ==== Sys2Proof/Machine/Codec.lean ====
section
/-! DEFINITION. The frame codec's instructions, ENCODE and PARSE (40_frame_codec.md). They are served in every link
state and send no record. -/

namespace Sys2Proof.Machine

/-- `ENCODE cmd, len` (R122). -/
def execEncode (cmd len : Byte) (s : State) : Result :=
  onPort (fun s =>
    match s.pbuf.bytes 0 len.toNat with
    | none => .fault .unwrittenRead
    | some payload =>
      raise .ok { s with
        obuf := s.obuf.setBytes 0 (encodedFrame cmd len payload)
        eLen := BitVec.ofNat 16 (8 + len.toNat)
        eCsum := csum cmd 0 0 len payload }) s

/-- `PARSE off, n` (R123): the `P_*` registers change on `OK` only (10_state.md R30). -/
def execParse (off n : Half) (s : State) : Result :=
  onPort (fun s =>
    match parseAt s.params.ibufSize s.ibuf off.toNat n.toNat with
    | .ends st => raise st s
    | .unwritten => .fault .unwrittenRead
    | .frame regs => raise .ok { s with parse := regs }) s

end Sys2Proof.Machine
end

