-- ==== Sys2Proof/Machine/Commands.lean ====
section
/-! DEFINITION. The command ids: each is a call of the session driver's `transfer(command, payload)` with a fixed
command id and an encoded payload (45_host_protocol.md R214, R220, 30_encoding.md R102). The call begins here; the
host's later turns run its steps (Machine/HostAgent.lean). The block itself carries a command id opaquely. -/

namespace Sys2Proof.Machine

/-- Whether the host is running a driver call or a scan: it then starts nothing else (45_host_protocol.md R210). -/
def hostBusy (s : State) : Bool := s.host.driver.isSome || s.host.scan.isSome

/-- A call of `transfer(id, payload)` about to take step 1 (R214). -/
def DriverRun.start (id : Byte) (payload : List Byte) : DriverRun :=
  { cmd := id, payload := payload, phase := .tsync, waiting := false, header := [], body := [], csumHi := 0 }

/-- The host calls the driver with command `id` (R214, R220). `latch` says that the wrapper first sets
`transfer_no_response` (R213). A busy host starts no call; a payload over 255 bytes is no call of the driver. That the
listed ids are such calls is DEDUCED (log entry 3). -/
def callDriver (id : Byte) (latch : Bool) (payload : List Byte) (s : State) : Result :=
  if payload.length > maxPayload then .refused (.payloadTooLong payload.length)
  else if hostBusy s then .next s
  else .next { s with host := { s.host with
    driver := some (DriverRun.start id payload)
    session := { s.host.session with transferNoResponse := s.host.session.transferNoResponse || latch } } }

/-- Command 0x10, begin-session. -/
def execCmdBeginSession (payload : List Byte) (s : State) : Result := callDriver 0x10 false payload s

/-- Command 0x11, end-session. -/
def execCmdEndSession (payload : List Byte) (s : State) : Result := callDriver 0x11 false payload s

/-- Command 0x12, dial. -/
def execCmdDial (payload : List Byte) (s : State) : Result := callDriver 0x12 false payload s

/-- Command 0x13, hang-up. -/
def execCmdHangUp (payload : List Byte) (s : State) : Result := callDriver 0x13 false payload s

/-- Command 0x14, wait-for-call. -/
def execCmdWaitForCall (payload : List Byte) (s : State) : Result := callDriver 0x14 false payload s

/-- Command 0x15, transfer-data: with an empty payload, the zero-length terminating payload, the wrapper sets the latch
(R213). That this id is always called by its wrapper is a DESIGN CHOICE (log entry 25). -/
def execCmdTransferData (payload : List Byte) (s : State) : Result := callDriver 0x15 payload.isEmpty payload s

/-- Command 0x16, reset (a command id; it does not reset the block). -/
def execCmdReset (payload : List Byte) (s : State) : Result := callDriver 0x16 false payload s

/-- Command 0x17, telephone-status, which the wrapper get-status sends (D46). -/
def execCmdTelephoneStatus (payload : List Byte) (s : State) : Result := callDriver 0x17 false payload s

/-- Command 0x18, sio32-mode. -/
def execCmdSio32Mode (payload : List Byte) (s : State) : Result := callDriver 0x18 false payload s

/-- Command 0x19, read-config. -/
def execCmdReadConfig (payload : List Byte) (s : State) : Result := callDriver 0x19 false payload s

/-- Command 0x1A, write-config. -/
def execCmdWriteConfig (payload : List Byte) (s : State) : Result := callDriver 0x1A false payload s

/-- Command 0x1F, transfer-data-end. -/
def execCmdTransferDataEnd (payload : List Byte) (s : State) : Result := callDriver 0x1F false payload s

/-- Command 0x21, isp-login. -/
def execCmdIspLogin (payload : List Byte) (s : State) : Result := callDriver 0x21 false payload s

/-- Command 0x22, isp-logout. -/
def execCmdIspLogout (payload : List Byte) (s : State) : Result := callDriver 0x22 false payload s

/-- Command 0x23, open-tcp. -/
def execCmdOpenTcp (payload : List Byte) (s : State) : Result := callDriver 0x23 false payload s

/-- Command 0x24, close-tcp. -/
def execCmdCloseTcp (payload : List Byte) (s : State) : Result := callDriver 0x24 false payload s

/-- Command 0x25, open-udp. -/
def execCmdOpenUdp (payload : List Byte) (s : State) : Result := callDriver 0x25 false payload s

/-- Command 0x26, close-udp. -/
def execCmdCloseUdp (payload : List Byte) (s : State) : Result := callDriver 0x26 false payload s

/-- Command 0x28, dns-query. -/
def execCmdDnsQuery (payload : List Byte) (s : State) : Result := callDriver 0x28 false payload s

/-- Command 0x3F, firmware-version. -/
def execCmdFirmwareVersion (payload : List Byte) (s : State) : Result := callDriver 0x3F false payload s

/-- Command 0x6E, error. -/
def execCmdError (payload : List Byte) (s : State) : Result := callDriver 0x6E false payload s

end Sys2Proof.Machine
end

