-- ==== Sys2Proof/Machine/Link.lean ====
section
/-! DEFINITION. The byte-exchange synchronizer's requests: XFER, ADVANCE, and the four pseudo-instructions that are
one request each (41_byte_exchange.md R170, R178, 30_encoding.md R104). -/

namespace Sys2Proof.Machine

/-- The start step of an XFER (R170, R171): the request record goes out and the request stays outstanding. -/
def startXfer (b : Byte) (s : State) : Result :=
  onPort (fun s =>
    if s.lstate = .ready then
      let ts := stampOf (now s) s.timeOffset
      .next { send (xferRequest b s.params.ctrlReq ts) s with
        xTs := ts
        pend := { valid := true, tx := b, ts := ts, t0 := now s } }
    else raise .notReady s) s

/-- `ADVANCE dt` (R178): the time-sync record carries the new timestamp. -/
def advanceTime (dt : Word) (s : State) : Result :=
  onPort (fun s =>
    if s.lstate = .ready then
      let offset := s.timeOffset + dt.setWidth 64
      raise .ok (send (timeSync (stampOf (now s) offset)) { s with timeOffset := offset })
    else raise .notReady s) s

/-- `XFER byte` (R170). -/
def execXfer (b : Byte) (s : State) : Result := startXfer b s

/-- `ADVANCE dt` (R178). -/
def execAdvance (dt : Word) (s : State) : Result := advanceTime dt s

/-- `TSYNC`, that is `ADVANCE 0` (30_encoding.md R104). -/
def execTsync (s : State) : Result := advanceTime 0 s

/-- `POLL`, that is `XFER 0x4B` (R104). -/
def execPoll (s : State) : Result := startXfer 0x4B s

/-- `EOC`, that is `XFER 0x80` (R104). -/
def execEoc (s : State) : Result := startXfer 0x80 s

/-- `PAD`, that is `XFER 0x00` (R104). -/
def execPad (s : State) : Result := startXfer 0x00 s

end Sys2Proof.Machine
end

