-- ==== Sys2Proof/Machine/Records.lean ====
section
/-! DEFINITION. The core's steps on an inbound record, one meaning for each record row: the handshake step, the XFER
completion step and the dispositions in READY (41_byte_exchange.md R166, R167, R172, R180 to R185). A record is
processed from the head of the receive queue; in the states that process none it stays there. -/

namespace Sys2Proof.Machine

/-- The handshake step on a record just popped (R166). -/
def handshakeStep (r : Record) (s : State) : State :=
  if isVersionRecord r then { send r s with lstate := .ready }
  else { logEvent .handshakeMismatch (leadingBytes r) s with lstate := .failed }

/-- The core processes record `r`, the head of the receive queue (R166, R167, R172); `dispose` is what READY with a
pending XFER does with it. -/
def processRecord (r : Record) (dispose : State → State) (s : State) : Result :=
  if receiving s then
    if s.lstate = .handshaking then .next (handshakeStep r (rxPop s)) else .next (dispose (rxPop s))
  else .next s

/-- A data-exchange reply ends the pending XFER with its `field_b` (R172, 30_encoding.md R93). -/
def completeXfer (b : Byte) (s : State) : State :=
  respond .ok { s with xRx := b, pend := { s.pend with valid := false } }

/-- An event code that the log reports in its low byte (R180, R182, R183, R185). -/
def logCode (kind : LogKind) (code : Byte) (s : State) : State := logEvent kind (code.setWidth 32) s

/-- Code 1 (R166 in HANDSHAKING, R180 in READY). -/
def execRecVersion (b c d : Byte) (ts : Word) (s : State) : Result :=
  processRecord (mkRecord 0x01 b c d ts) (logCode .unexpectedEvent 0x01) s

/-- Code 101, joypad: dropped silently (R181). -/
def execRecJoypad (b c d : Byte) (ts : Word) (s : State) : Result :=
  processRecord (mkRecord 0x65 b c d ts) id s

/-- Code 104, data-exchange-request: dropped and logged (R182). -/
def execRecXferReq (b c d : Byte) (ts : Word) (s : State) : Result :=
  processRecord (mkRecord 0x68 b c d ts) (logCode .unexpectedEvent 0x68) s

/-- Code 105, data-exchange-reply: completes the XFER (R172). -/
def execRecXferReply (b c d : Byte) (ts : Word) (s : State) : Result :=
  processRecord (mkRecord 0x69 b c d ts) (completeXfer b) s

/-- Code 106, time-sync: dropped and logged; `TIME_OFFSET` stays (R183). -/
def execRecTimeSync (b c d : Byte) (ts : Word) (s : State) : Result :=
  processRecord (mkRecord 0x6A b c d ts) (logCode .unexpectedEvent 0x6A) s

/-- Code 108, status: dropped silently (R184). -/
def execRecStatus (b c d : Byte) (ts : Word) (s : State) : Result :=
  processRecord (mkRecord 0x6C b c d ts) id s

/-- Code 109, disconnect-request: dropped silently, the link stays up (R184). -/
def execRecDisconnectReq (b c d : Byte) (ts : Word) (s : State) : Result :=
  processRecord (mkRecord 0x6D b c d ts) id s

/-- Any other code: dropped and logged as unknown (R185). -/
def execRecUnknown (code b c d : Byte) (ts : Word) (s : State) : Result :=
  processRecord (mkRecord code b c d ts) (logCode .unknownEvent code) s

end Sys2Proof.Machine
end

