-- ==== Sys2Proof/Machine/Dispatch.lean ====
section
/-! DEFINITION. The dispatch: one arm for each instruction, each a direct call of its meaning. -/

namespace Sys2Proof.Machine

def exec (i : Instr) (s : State) : Host.Outcome State Fault Refusal :=
  match i with
  | .encode cmd len => Sys2Proof.Machine.execEncode cmd len s
  | .parse off n => Sys2Proof.Machine.execParse off n s
  | .xfer b => Sys2Proof.Machine.execXfer b s
  | .advance dt => Sys2Proof.Machine.execAdvance dt s
  | .tsync => Sys2Proof.Machine.execTsync s
  | .poll => Sys2Proof.Machine.execPoll s
  | .eoc => Sys2Proof.Machine.execEoc s
  | .pad => Sys2Proof.Machine.execPad s
  | .recVersion b c d ts => Sys2Proof.Machine.execRecVersion b c d ts s
  | .recJoypad b c d ts => Sys2Proof.Machine.execRecJoypad b c d ts s
  | .recXferReq b c d ts => Sys2Proof.Machine.execRecXferReq b c d ts s
  | .recXferReply b c d ts => Sys2Proof.Machine.execRecXferReply b c d ts s
  | .recTimeSync b c d ts => Sys2Proof.Machine.execRecTimeSync b c d ts s
  | .recStatus b c d ts => Sys2Proof.Machine.execRecStatus b c d ts s
  | .recDisconnectReq b c d ts => Sys2Proof.Machine.execRecDisconnectReq b c d ts s
  | .recUnknown code b c d ts => Sys2Proof.Machine.execRecUnknown code b c d ts s
  | .cmdBeginSession p => Sys2Proof.Machine.execCmdBeginSession p s
  | .cmdEndSession p => Sys2Proof.Machine.execCmdEndSession p s
  | .cmdDial p => Sys2Proof.Machine.execCmdDial p s
  | .cmdHangUp p => Sys2Proof.Machine.execCmdHangUp p s
  | .cmdWaitForCall p => Sys2Proof.Machine.execCmdWaitForCall p s
  | .cmdTransferData p => Sys2Proof.Machine.execCmdTransferData p s
  | .cmdReset p => Sys2Proof.Machine.execCmdReset p s
  | .cmdTelephoneStatus p => Sys2Proof.Machine.execCmdTelephoneStatus p s
  | .cmdSio32Mode p => Sys2Proof.Machine.execCmdSio32Mode p s
  | .cmdReadConfig p => Sys2Proof.Machine.execCmdReadConfig p s
  | .cmdWriteConfig p => Sys2Proof.Machine.execCmdWriteConfig p s
  | .cmdTransferDataEnd p => Sys2Proof.Machine.execCmdTransferDataEnd p s
  | .cmdIspLogin p => Sys2Proof.Machine.execCmdIspLogin p s
  | .cmdIspLogout p => Sys2Proof.Machine.execCmdIspLogout p s
  | .cmdOpenTcp p => Sys2Proof.Machine.execCmdOpenTcp p s
  | .cmdCloseTcp p => Sys2Proof.Machine.execCmdCloseTcp p s
  | .cmdOpenUdp p => Sys2Proof.Machine.execCmdOpenUdp p s
  | .cmdCloseUdp p => Sys2Proof.Machine.execCmdCloseUdp p s
  | .cmdDnsQuery p => Sys2Proof.Machine.execCmdDnsQuery p s
  | .cmdFirmwareVersion p => Sys2Proof.Machine.execCmdFirmwareVersion p s
  | .cmdError p => Sys2Proof.Machine.execCmdError p s

end Sys2Proof.Machine
end

