-- ==== Sys2Proof/Machine/HostAgent.lean ====
section
/-! DEFINITION. The host agent's turns (00_scope.md R8): its own program, the Active Session Driver and the Passive
Trace Analyzer (45_host_protocol.md). The host reaches the block only through request words, buffer accesses and the
read port; its layers add no state to the block (R4). -/

namespace Sys2Proof.Machine

/-! ## Offering a request word -/

/-- The port takes a request word and runs it; an illegal one answers `BAD_REQUEST` (30_encoding.md R86, R87). -/
def issueRequest (q : DWord) (s : State) : Result :=
  match decode (.request q) with
  | .ok i => exec i s
  | .error _ => illegalRequest s

/-- The request word of `XFER b` (R84, R103). -/
def xferWord (b : Byte) : DWord := requestWord 0x10 b 0 0 0

/-- The request word of `ADVANCE dt` (R85, R103). -/
def advanceWord (dt : Word) : DWord := requestWord 0x11 0 0 0 dt

/-- The request word of `ENCODE cmd, len` (R82, R103). -/
def encodeWord (cmd len : Byte) : DWord := requestWord 0x01 cmd len 0 0

/-- The request word of `PARSE off, n` (R83, R103). -/
def parseWord (off n : Half) : DWord := requestWord 0x02 0 0 0 (off ++ n)

/-! ## The device-identity latch (45_host_protocol.md R211) -/

/-- The learned id after observing a device-identity byte: the first one stays. -/
def latchLearn (learned : Option Byte) (seen : Byte) : Option Byte :=
  match learned with
  | none => some seen
  | some id => some id

/-- The finding of the latch: a byte that differs from the learned id. -/
def latchDrift (learned : Option Byte) (seen : Byte) : Option Drift :=
  match learned with
  | none => none
  | some id => if seen = id then none else some ⟨id, seen⟩

/-! ## The Active Session Driver (R212 to R219) -/

/-- Setting the driver call in progress. -/
def setDriver (d : DriverRun) (s : State) : State := { s with host := { s.host with driver := some d } }

/-- The call goes on with another phase, its response taken. -/
def goPhase (phase : DriverPhase) (d : DriverRun) (s : State) : State :=
  setDriver { d with phase := phase, waiting := false } s

/-- The call ends with a result (R214 step 4, R218, R219). -/
def endCall (r : CallResult) (s : State) : State :=
  { s with host := { s.host with driver := none, results := s.host.results ++ [r] } }

/-- The driver passes a reply to `EOC` through the latch of the peer's device id (R212). -/
def latchPeer (seen : Byte) (s : State) : State :=
  { s with host := { s.host with
    session := { s.host.session with peerDeviceId := latchLearn s.host.session.peerDeviceId seen }
    findings := s.host.findings ++ (latchDrift s.host.session.peerDeviceId seen).toList } }

/-- The driver's own device byte, the `0x80` it sends at the device-id position of its frame (R212; when it is learned
is DEDUCED, unsafe: log entry 11). -/
def latchLocal (s : State) : State :=
  { s with host := { s.host with
    session := { s.host.session with localDeviceId := latchLearn s.host.session.localDeviceId 0x80 } } }

/-- The byte the driver sends in a phase, for the phases that are one XFER each. -/
def phaseByte (d : DriverRun) (s : State) : Byte :=
  match d.phase with
  | .frame k => hostByte s .obuf k
  | .eoc | .confirmEoc => 0x80
  | .pad => 0x00
  | .confirm => d.header.getD 0 0 ^^^ 0x80
  | _ => 0x4B

/-- The request word of a phase (R214 to R217). -/
def phaseWord (d : DriverRun) (s : State) : DWord :=
  match d.phase with
  | .tsync => advanceWord 0
  | .encode => encodeWord d.cmd (BitVec.ofNat 8 d.payload.length)
  | _ => xferWord (phaseByte d s)

/-- The state in which the host offers the phase's request: the driver waits, a read of an unwritten `OBUF` byte has
used up a free value, and step 3 sends the driver's own device byte. -/
def phaseIssued (d : DriverRun) (s : State) : State :=
  match d.phase with
  | .frame k => setDriver { d with waiting := true } (afterHostRead s .obuf k)
  | .eoc => latchLocal (setDriver { d with waiting := true } s)
  | _ => setDriver { d with waiting := true } s

/-- `L'`, the length byte of the reply frame (R216). -/
def replyLength (d : DriverRun) : Nat := (d.header.getD 3 0).toNat

/-- The checksum of the reply frame's window (R216). -/
def replyCsum (d : DriverRun) : Half :=
  csum (d.header.getD 0 0) (d.header.getD 1 0) (d.header.getD 2 0) (d.header.getD 3 0) d.body

/-- Steps 2 to 8 on the reply byte `x` of the phase's XFER, or on the `OK` of its other request (R214 to R218). -/
def driverReply (d : DriverRun) (x : Byte) (s : State) : State :=
  match d.phase with
  | .tsync => goPhase .load d s
  | .load => goPhase .encode d s
  | .encode => goPhase (.frame 0) d s
  | .frame k =>
    if x ≠ 0xD2 then endCall (.failed .linkProtocolViolation) s
    else if k < 7 + d.payload.length then goPhase (.frame (k + 1)) d s
    else goPhase .eoc d s
  | .eoc => goPhase .pad d (latchPeer x s)
  | .pad =>
    if x ≠ d.cmd ^^^ 0x80 then endCall (.failed .linkProtocolViolation) s
    else if s.host.session.transferNoResponse then
      endCall .noReply { s with host := { s.host with session := { s.host.session with transferNoResponse := false } } }
    else goPhase .magic1 d s
  | .magic1 => if x = 0x99 then goPhase .magic2 d s else goPhase .magic1 d s
  | .magic2 => if x ≠ 0x66 then endCall (.failed .linkProtocolViolation) s else goPhase .header d s
  | .header =>
    let d' := { d with header := d.header ++ [x] }
    if d'.header.length < 4 then goPhase .header d' s
    else if replyLength d' = 0 then goPhase .csumHi d' s
    else goPhase .body d' s
  | .body =>
    let d' := { d with body := d.body ++ [x] }
    if d'.body.length < replyLength d then goPhase .body d' s else goPhase .csumHi d' s
  | .csumHi => goPhase .csumLo { d with csumHi := x } s
  | .csumLo =>
    if replyCsum d ≠ csumOfBytes d.csumHi x then endCall (.failed .checksumMismatch) s
    else goPhase .confirmEoc d s
  | .confirmEoc => goPhase .confirm d (latchPeer x s)
  | .confirm =>
    if d.header.getD 0 0 ≠ d.cmd then endCall (.failed .commandMismatch) s
    else endCall (.reply (d.body.drop 1)) s

/-- The driver takes the response of its phase's request; a status other than `OK` ends the call (R214, R219; for
statuses but `LINK_LOST` and `TIMEOUT` a DESIGN CHOICE, unsafe: log entry 10). -/
def driverResume (d : DriverRun) (st : Status) (s : State) : State :=
  if st = .ok then driverReply d s.xRx s else endCall (.failed (.request st)) s

/-- The host's turn while a driver call is in progress: it takes the response it waits for, writes the payload to
`PBUF`, or offers the phase's request, which the port may hold (30_encoding.md R86). -/
def driverTurn (d : DriverRun) (s : State) : Result :=
  if d.waiting then
    match s.response with
    | some st => .next (driverResume d st s)
    | none => .next s
  else if d.phase = .load then hostWrite .pbuf 0 d.payload (goPhase .encode d s)
  else if s.pend.valid then .next s
  else issueRequest (phaseWord d s) (phaseIssued d s)

/-! ## The Passive Trace Analyzer (R230 to R236) -/

/-- The bytes of one direction of a trace. -/
def sideBytes (trace : List (Byte × Byte)) : Sender → List Byte
  | .a => trace.map Prod.fst
  | .b => trace.map Prod.snd

/-- The other direction. -/
def Sender.other : Sender → Sender
  | .a => .b
  | .b => .a

/-- The magic detector on one direction at an index (R230). -/
def magicAt (bytes : List Byte) (i : Nat) : Bool :=
  bytes[i]? == some 0x99 && bytes[i + 1]? == some 0x66

/-- Which direction sends a frame at an index; on a tie the initiator's, `A` (R232). -/
def senderAt (trace : List (Byte × Byte)) (i : Nat) : Option Sender :=
  if magicAt (sideBytes trace .a) i then some .a
  else if magicAt (sideBytes trace .b) i then some .b
  else none

/-- The sender's bytes that go to `IBUF` (R231). -/
def scanWindow (r : ScanRun) (sender : Sender) (size : Nat) : List Byte :=
  ((sideBytes r.trace sender).drop r.i).take size

/-- The learned id of a direction. -/
def ScanRun.learned (r : ScanRun) : Sender → Option Byte
  | .a => r.learnedA
  | .b => r.learnedB

/-- Observing a device-identity byte in a direction (R211, R233). -/
def ScanRun.learn (r : ScanRun) (sender : Sender) (seen : Byte) : ScanRun :=
  match sender with
  | .a => { r with learnedA := latchLearn r.learnedA seen }
  | .b => { r with learnedB := latchLearn r.learnedB seen }

/-- The report of one frame, in the order of R233, from the PARSE registers; `R[i + 9 + L]` lies inside the trace
whenever the frame does. -/
def frameReport (r : ScanRun) (sender : Sender) (p : ParseRegs) : List ScanItem :=
  let ackSeen := ((sideBytes r.trace sender.other)[r.i + 9 + p.len.toNat]?).getD 0
  [.frame p.cmd sender r.i]
    ++ (if p.find.getLsbD 1 then [.reservedFieldAnomaly] else [])
    ++ (if p.find.getLsbD 0 then [.checksumMismatch p.csumCalc p.csumRx] else [])
    ++ (match latchDrift (r.learned sender) p.dev with
        | some drift => [.deviceIdentityDrift drift.learned drift.seen]
        | none => [])
    ++ (if p.ack ≠ 0x00 then [.sendAckNonZero p.ack] else [])
    ++ (if ackSeen ≠ p.cmd ^^^ 0x80 then [.receiveAckMismatch (p.cmd ^^^ 0x80) ackSeen] else [])

/-- Setting the scan in progress. -/
def setScan (r : ScanRun) (s : State) : State := { s with host := { s.host with scan := some r } }

/-- The scan is over and its report complete. -/
def endScan (r : ScanRun) (s : State) : State :=
  { s with host := { s.host with scan := none, scans := s.host.scans ++ [r] } }

/-- The scan's turn on the response of its PARSE: `INCOMPLETE` stops it (R235), anything else reports the frame and
moves past it (R233, R234; DEDUCED: log entry 18). -/
def scanReport (r : ScanRun) (sender : Sender) (st : Status) (s : State) : State :=
  if st = .incomplete then endScan { r with report := r.report ++ [.incomplete r.i sender] } s
  else
    setScan { r.learn sender s.parse.dev with
      i := r.i + s.parse.consumed.toNat
      report := r.report ++ frameReport r sender s.parse
      phase := .seek } s

/-- The host's turn while a scan is in progress (R230, R231). -/
def scanTurn (r : ScanRun) (s : State) : Result :=
  match r.phase with
  | .seek =>
    if r.i < r.trace.length then
      match senderAt r.trace r.i with
      | none => .next (setScan { r with i := r.i + 1 } s)
      | some sender => .next (setScan { r with phase := .load sender } s)
    else .next (endScan r s)
  | .load sender =>
    hostWrite .ibuf 0 (scanWindow r sender s.params.ibufSize) (setScan { r with phase := .issue sender } s)
  | .issue sender =>
    if s.pend.valid then .next s
    else
      issueRequest (parseWord 0 (BitVec.ofNat 16 (scanWindow r sender s.params.ibufSize).length))
        (setScan { r with phase := .report sender } s)
  | .report sender =>
    match s.response with
    | some st => .next (scanReport r sender st s)
    | none => .next s

/-- A scan about to begin (10_state.md R34). -/
def ScanRun.start (trace : List (Byte × Byte)) : ScanRun :=
  { trace := trace, i := 0, learnedA := none, learnedB := none, report := [], phase := .seek }

/-! ## The host's own program -/

/-- The host records what it has read. -/
def see (x : HostSeen) (s : State) : State := { s with host := { s.host with seen := s.host.seen ++ [x] } }

/-- The host offers a request word: the port holds it while another is outstanding, and then the host waits with its
program where it is (R86). `popped` is the state in which the host has moved past the step. -/
def offerRequest (q : DWord) (s popped : State) : Result :=
  if s.pend.valid then .next s else issueRequest q popped

/-- The host offers `ADVANCE floor(seconds × TS_RES)` (30_encoding.md R85). Where that number does not fit the operand
the spec states no `dt`: it is a free value, and everything else is as for any ADVANCE (DESIGN CHOICE, safe: log entry
24). -/
def offerAdvance (num denLess1 : Nat) (s popped : State) : Result :=
  let ticks := ticksOfSeconds s.params.tsRes num denLess1
  if ticks < 2 ^ 32 then offerRequest (advanceWord (BitVec.ofNat 32 ticks)) s popped
  else
    offerRequest (advanceWord (Config.longAdvance s.freeDraws)) s { popped with freeDraws := popped.freeDraws + 1 }

/-- One step of the host's program (30_encoding.md R105, 45_host_protocol.md R222). A command call is the call of the
command's wrapper: with id 0x15 and no payload it sets the no-response latch (R213), and a call of the driver past that
wrapper is no step of this host (DESIGN CHOICE: log entry 25). -/
def hostOp (op : HostOp) (s popped : State) : Result :=
  match op with
  | .request q => offerRequest q s popped
  | .advanceTime num denLess1 => offerAdvance num denLess1 s popped
  | .writePbuf i bytes => hostWrite .pbuf i bytes popped
  | .writeIbuf i bytes => hostWrite .ibuf i bytes popped
  | .readReg index => .next (see (.reg index (readPort s index)) popped)
  | .readByte space i =>
    if i < spaceSize s.params space then
      .next (see (.byte space i (hostByte s space i)) (afterHostRead popped space i))
    else .fault .noSuchByte
  | .command id payload =>
    match decode (.command id payload) with
    | .ok i => exec i popped
    | .error _ => callDriver id false payload popped
  | .setTransferNoResponse =>
    .next { popped with host := { popped.host with session := { popped.host.session with transferNoResponse := true } } }
  | .newSession => .next { popped with host := { popped.host with session := Session.new } }
  | .scan trace => .next (setScan (ScanRun.start trace) popped)

/-- Moving the host past the first step of its program. -/
def popHost (s : State) : State := { s with host := { s.host with queue := s.host.queue.tail } }

/-- The host's turn: the driver call or the scan in progress goes on, else the next step of its program. -/
def hostTurn (s : State) : Result :=
  match s.host.driver, s.host.scan with
  | some d, _ => driverTurn d s
  | none, some r => scanTurn r s
  | none, none =>
    match s.host.queue with
    | [] => .next s
    | op :: _ => hostOp op s (popHost s)

/-! ## The core's turn on the receive queue -/

/-- The core decodes and processes the head of the receive queue where R167 lets it, and waits elsewhere. -/
def receiveTurn (s : State) : Result :=
  if receiving s then
    match s.rxq with
    | r :: _ => exec (decodeRecord r) s
    | [] => .next s
  else .next s

end Sys2Proof.Machine
end

