-- ==== Sys2Proof/Machine/Step.lean ====
section
/-! DEFINITION. One step of the machine: the scheduler's next choice is taken (00_scope.md R8, 60_exceptions.md
R270). There is no program counter (10_state.md R26): instructions come from the request port, the receive queue and
the host's command calls. -/

namespace Sys2Proof.Machine

/-- One step. With no choice left nothing moves; whether the run has ended or hangs (R298) is `runStatus` in
Machine/Run.lean, for which the choices do not matter. -/
def step (s : State) : Host.Outcome State Fault Refusal :=
  match s.script with
  | [] => .next s
  | turn :: rest =>
    match turn with
    | .host => hostTurn { s with script := rest }
    | .peer => .next (peerTurn { s with script := rest })
    | .tick t => .next (tick t { s with script := rest })
    | .receive => receiveTurn { s with script := rest }
    | .timeout => .next (timeoutStep { s with script := rest })
    | .reset => .next (blockReset { s with script := rest })

/-- A code stored where the next step fetches it: a request word or a command call as the next step of a free host
with the port ready; a record at the head of the receive queue, the link in a state that processes records (READY
with an XFER pending, unless the state already processes them). -/
def State.withCode (s : State) : Code → State
  | .request q =>
    { s with
      script := .host :: s.script
      pend := { s.pend with valid := false }
      host := { s.host with queue := .request q :: s.host.queue, driver := none, scan := none } }
  | .command id payload =>
    { s with
      script := .host :: s.script
      host := { s.host with queue := .command id payload :: s.host.queue, driver := none, scan := none } }
  | .record r =>
    if receiving s then { s with script := .receive :: s.script, rxq := r :: s.rxq }
    else
      { s with
        script := .receive :: s.script
        rxq := r :: s.rxq
        lstate := .ready
        pend := { s.pend with valid := true } }

/-- The instruction of a row of spec/opcode_table.json stored where `step` fetches its next instruction. -/
def State.withFetchWord (s : State) (nbits w : Nat) : State := s.withCode (tableCode nbits w)

end Sys2Proof.Machine
end

