-- ==== Sys2Proof/Machine/Run.lean ====
section
/-! DEFINITION. How a run stands (70_reset_and_hazards.md R298): it ends when the host has no further request to issue
and no request is outstanding, and it hangs when a request never responds. The schedule and the remaining turns of peer
and clock do not enter. What counts as a further request, and when a response can no longer come, is DEDUCED: log entry
23. How a run stands whose request a reset took is a DESIGN CHOICE: log entry 26. -/

namespace Sys2Proof.Machine

/-- How a run stands (R298). -/
inductive RunStatus where
  /-- the host has a request to issue, or one is outstanding that can still respond -/
  | running
  /-- no further request and none outstanding: this is the end state -/
  | ended
  /-- the host waits for a response that no step can give any more, reset apart: there is no end state -/
  | hung
  deriving DecidableEq, Repr

/-- Whether a step of the host's program issues a request, itself or through the layer it starts. -/
def HostOp.issues : HostOp → Bool
  | .request _ => true
  | .advanceTime _ _ => true
  | .writePbuf _ _ => false
  | .writeIbuf _ _ => false
  | .readReg _ => false
  | .readByte _ _ => false
  | .command _ _ => true
  | .setTransferNoResponse => false
  | .newSession => false
  | .scan _ => true

/-- The host has a request to issue: a driver call or a scan is in progress, or its program holds a step that issues. -/
def hostHasRequests (s : State) : Bool :=
  s.host.driver.isSome || s.host.scan.isSome || s.host.queue.any HostOp.issues

/-- The host's layer in progress waits for the response of a request it has issued. -/
def hostAwaits (s : State) : Bool :=
  match s.host.driver, s.host.scan with
  | some d, _ => d.waiting
  | none, some r =>
    match r.phase with
    | .report _ => true
    | _ => false
  | none, none => false

/-- Whether a step of the peer can end a pending XFER: the push of a reply, or the loss of the connection
(41_byte_exchange.md R176). -/
def PeerOp.endsXfer : PeerOp → Bool
  | .connect => false
  | .push r => r.code == 0x69
  | .lost => true

/-- The peer's steps that can be taken once it is connected: those before a further `PeerConnect`, which is never
enabled again (R165). -/
def peerAhead (s : State) : List PeerOp := s.peer.takeWhile (fun op => op ≠ .connect)

/-- Whether the wall clock, of 64 bits, can reach the timeout of the pending XFER (R175). -/
def timeoutReachable (s : State) : Bool :=
  match s.params.xferTimeout with
  | none => false
  | some limit => decide (s.pend.t0.toNat + limit < 2 ^ 64)

/-- Whether the pending XFER can still respond: by a reply in the queue, by a step of the peer, or by the timeout
(R172, R175, R176, R187). -/
def canRespond (s : State) : Bool :=
  decide (s.lstate = .ready) &&
    (s.rxq.any (fun r => r.code == 0x69) || (peerAhead s).any PeerOp.endsXfer || timeoutReachable s)

/-- How the run stands at a state (R298). A driver call or a scan that waits for a response while no request is
outstanding and none has been given has lost its request to a reset (R291), and hangs. Where the reset took a request of
the host's own program, and that was the last, nothing is outstanding and nothing waits, and the run has ended, though
that request never responds: R298 settles neither case (DESIGN CHOICE: log entry 26). -/
def runStatus (s : State) : RunStatus :=
  if s.pend.valid then if canRespond s then .running else .hung
  else if hostAwaits s && s.response.isNone then .hung
  else if hostHasRequests s then .running
  else .ended

end Sys2Proof.Machine
end

