-- ==== Sys2Proof/Safety.lean ====
section
/-! DEFINITION. What counts as a well-kept state, and which moves of the link state are allowed. How a run stands is in
Machine/Run.lean. -/

namespace Sys2Proof.Machine

/-- `PBUF`, `OBUF` and `IBUF` are in canonical form and hold only indices they have (20_memory.md R60, R61). -/
abbrev State.BuffersKept (s : State) : Prop :=
  s.pbuf.wf ∧ s.obuf.wf ∧ s.ibuf.wf ∧
    s.pbuf.within (spaceSize s.params .pbuf) ∧ s.obuf.within (spaceSize s.params .obuf) ∧
    s.ibuf.within (spaceSize s.params .ibuf)

/-- A pending XFER: the link is READY, no response stands, the slot's timestamp is `X_TS`, and the clock has not
gone back since the slot was filled (10_state.md R23, 41_byte_exchange.md R161, R170, 30_encoding.md R86). -/
abbrev State.PendKept (s : State) : Prop :=
  s.pend.valid = true → s.lstate = .ready ∧ s.response = none ∧ s.pend.ts = s.xTs ∧ s.pend.t0 ≤ s.clock

/-- The receive queue holds at most its capacity, and nothing while LISTENING (10_state.md R25, R164). -/
abbrev State.QueueKept (s : State) : Prop :=
  s.rxq.length ≤ s.params.rxqDepth ∧ (s.lstate = .listening → s.rxq = [])

/-- `P_FIND` agrees with the PARSE registers (10_state.md R31). -/
abbrev State.FindingsKept (s : State) : Prop :=
  s.parse.find = findings s.parse.r1 s.parse.r2 s.parse.csumCalc s.parse.csumRx

/-- `LAST_STATUS` is the code of the last response, or 0x00 where there has been none (R27). -/
abbrev State.StatusKept (s : State) : Prop :=
  s.lastStatus = match s.respHist.getLast? with
    | none => 0x00
    | some st => st.code

/-- The invariant of the machine. -/
abbrev State.Inv (s : State) : Prop :=
  s.params.Legal ∧ s.BuffersKept ∧ s.PendKept ∧ s.QueueKept ∧ s.FindingsKept ∧ s.StatusKept

/-- The transitions of `LSTATE` that R160 lists, staying put among them; reset apart. -/
def linkMoves : List (LinkState × LinkState) :=
  [(.listening, .handshaking), (.handshaking, .ready), (.handshaking, .failed), (.handshaking, .closed),
   (.ready, .closed)]

/-- Whether `LSTATE` may go from one value to another without reset (41_byte_exchange.md R160). -/
abbrev linkMayMove (l l' : LinkState) : Prop := l = l' ∨ (l, l') ∈ linkMoves

end Sys2Proof.Machine
end

