-- ==== Sys2Proof/Certificates/Slice0/Obligations.lean ====
section
/-! DEFINITION. The statements for the provers. A statement gives values and formulas of its own, from the rules of
spec/, and names the model's definitions only for the state, the step, `exec`, the codes and the buffers. -/

namespace Sys2Proof.Claims

open Sys2Proof.Machine

/-- The state with a request ended: status code and response out (30_encoding.md R88). -/
def answered (code : Byte) (st : Status) (s : State) : State :=
  { s with lastStatus := code, response := some st, respHist := s.respHist ++ [st] }

/-- The match and mask of the four request rows (30_encoding.md R82 to R85). -/
def legalWord (q : DWord) : Prop :=
  q &&& 0xFF0000FFFFFFFFFF = 0x0100000000000000 ∨ q &&& 0xFFFFFFFF00000000 = 0x0200000000000000 ∨
    q &&& 0xFF00FFFFFFFFFFFF = 0x1000000000000000 ∨ q &&& 0xFFFFFFFF00000000 = 0x1100000000000000

/-- The sum of a checksum window, before any reduction (40_frame_codec.md R120). -/
def windowSum (c r1 r2 len : Byte) (p : List Byte) : Nat :=
  c.toNat + r1.toNat + r2.toNat + len.toNat + (p.map BitVec.toNat).sum

/-- The four little-endian timestamp bytes of a record the block builds (41_byte_exchange.md R163). -/
def stampBytes (ts : Stamp) : Byte × Byte × Byte × Byte :=
  (ts.extractLsb' 0 8, ts.extractLsb' 8 8, ts.extractLsb' 16 8, 0#1 ++ ts.extractLsb' 24 7)

/-- The record with four leading bytes and the timestamp of `stampBytes`. -/
def builtRecord (code b c d : Byte) (ts : Stamp) : Record :=
  ⟨code, b, c, d, (stampBytes ts).1, (stampBytes ts).2.1, (stampBytes ts).2.2.1, (stampBytes ts).2.2.2⟩

/-- `(Now() + TIME_OFFSET) mod 2^31` (R162). -/
def stampAt (now offset : DWord) : Stamp := BitVec.ofNat 31 ((now.toNat + offset.toNat) % 2 ^ 31)

/-- The next turn is the host's, and the driver call `d` waits for its response, which is `st`. -/
def driverTakes (s : State) (rest : List Turn) (d : DriverRun) (st : Status) : Prop :=
  s.script = .host :: rest ∧ s.host.driver = some d ∧ d.waiting = true ∧ s.response = some st

/-- The turn is over and the driver call stands at `d`. -/
def driverAt (d : DriverRun) (rest : List Turn) (s : State) : State :=
  { s with script := rest, host := { s.host with driver := some d } }

/-- The turn is over and the driver call has ended with `r`. -/
def callOver (r : CallResult) (rest : List Turn) (s : State) : State :=
  { s with script := rest, host := { s.host with driver := none, results := s.host.results ++ [r] } }

/-- The next turn is the host's, and a scan `r` is in progress. -/
def scanTakes (s : State) (rest : List Turn) (r : ScanRun) : Prop :=
  s.script = .host :: rest ∧ s.host.driver = none ∧ s.host.scan = some r

/-- The turn is over and the scan stands at `r`. -/
def scanAt (r : ScanRun) (rest : List Turn) (s : State) : State :=
  { s with script := rest, host := { s.host with scan := some r } }

/-- The turn is over and the scan has ended at `r`. -/
def scanOver (r : ScanRun) (rest : List Turn) (s : State) : State :=
  { s with script := rest, host := { s.host with scan := none, scans := s.host.scans ++ [r] } }

/-- The next turn is the host's, which is free and has `op` as the next step of its program. -/
def hostDoes (s : State) (rest : List Turn) (op : HostOp) (ops : List HostOp) : Prop :=
  s.script = .host :: rest ∧ s.host.driver = none ∧ s.host.scan = none ∧ s.host.queue = op :: ops

/-- The turn is over and the host has moved past that step. -/
def hostDone (ops : List HostOp) (rest : List Turn) (s : State) : State :=
  { s with script := rest, host := { s.host with queue := ops } }

/-- The bytes of a complete frame (30_encoding.md R97). -/
def wireFrame (cmd r1 r2 len : Byte) (p : List Byte) (hi lo dev ack : Byte) : List Byte :=
  [0x99, 0x66, cmd, r1, r2, len] ++ p ++ [hi, lo, dev, ack]

end Sys2Proof.Claims

open Sys2Proof Sys2Proof.Machine Sys2Proof.Claims

/-! ## Encodings -/

/-- Decoding the code of a well-formed instruction gives it back, with every operand (R80 to R85, R89, R102). That a
request word takes the name of its most specific row is the model's choice (log entry 1). -/
def Obligations.DecodeEncodeAgree : Prop := ∀ i : Instr, i.WellFormed → decode (encode i) = .ok i

/-- Every code that decodes is the code of the instruction it decodes to, which is well formed. -/
def Obligations.EncodeDecodeAgree : Prop :=
  ∀ (c : Code) (i : Instr), decode c = .ok i → encode i = c ∧ i.WellFormed

/-- Seven codes, written out bit by bit from the encodings of R82 to R85, R89 and R102, decode to the instructions they
stand for. The request words stand in 95_test_vectors.md too; the record is written from R89 and R93, and the command
from R102. That 0x104B000000000000 is named POLL rather than XFER 0x4B is the model's naming (log entry 1). -/
def Obligations.SpecWordsDecode : Prop :=
  decode (.request 0x0110080000000000) = .ok (.encode 0x10 8) ∧
  decode (.request 0x02000000000F000E) = .ok (.parse 15 14) ∧
  decode (.request 0x1099000000000000) = .ok (.xfer 0x99) ∧
  decode (.request 0x1100000000000010) = .ok (.advance 0x10) ∧
  decode (.request 0x104B000000000000) = .ok .poll ∧
  decode (.record ⟨0x69, 0xD2, 0x80, 0x00, 0x78, 0x56, 0x34, 0x12⟩) = .ok (.recXferReply 0xD2 0x80 0x00 0x12345678) ∧
  decode (.command 0x28 [0x61, 0x2E, 0x62]) = .ok (.cmdDnsQuery [0x61, 0x2E, 0x62])

/-- R104: each pseudo-instruction is exactly one request, and does what that request does. -/
def Obligations.PseudoInstructionsAreTheirExpansion : Prop :=
  encode .tsync = .request 0x1100000000000000 ∧ encode .poll = .request 0x104B000000000000 ∧
  encode .eoc = .request 0x1080000000000000 ∧ encode .pad = .request 0x1000000000000000 ∧
  ∀ s : State, exec .tsync s = exec (.advance 0) s ∧ exec .poll s = exec (.xfer 0x4B) s ∧
    exec .eoc s = exec (.xfer 0x80) s ∧ exec .pad s = exec (.xfer 0x00) s

/-! ## The step and the request port -/

/-- A step runs the decoded instruction: a request word that a free host offers to a ready port, the record at the
head of the queue where the core processes it, and a command that a free host calls. Around `exec` the step only
takes the scheduler's choice and, for the host's steps, moves past the step of its program; `exec` of a record
itself takes the record off the queue. That instructions come from these three places is the model's reading (log
entry 2). -/
def Obligations.StepRunsTheDecodedInstruction : Prop :=
  (∀ (s : State) (rest : List Turn) (q : DWord) (ops : List HostOp) (i : Instr),
    hostDoes s rest (.request q) ops → s.pend.valid = false → decode (.request q) = .ok i →
      step s = exec i (hostDone ops rest s)) ∧
  (∀ (s : State) (rest : List Turn) (r : Record) (rs : List Record) (i : Instr),
    s.script = .receive :: rest → s.rxq = r :: rs →
      (s.lstate = .handshaking ∨ (s.lstate = .ready ∧ s.pend.valid = true)) → decode (.record r) = .ok i →
        step s = exec i { s with script := rest }) ∧
  (∀ (s : State) (rest : List Turn) (id : Byte) (p : List Byte) (ops : List HostOp) (i : Instr),
    hostDoes s rest (.command id p) ops → decode (.command id p) = .ok i → step s = exec i (hostDone ops rest s))

/-- R87: an illegal request word, one that matches none of the four rows, changes no state but `LAST_STATUS`, sends
and logs nothing, and is answered `BAD_REQUEST`; the all-zero word is one. -/
def Obligations.IllegalRequestAnswersBadRequest : Prop :=
  ¬ legalWord 0 ∧
  ∀ (s : State) (rest : List Turn) (q : DWord) (ops : List HostOp),
    hostDoes s rest (.request q) ops → s.pend.valid = false → ¬ legalWord q →
      step s = .next (answered 0x10 .badRequest (hostDone ops rest s))

/-- R86: while a request is outstanding the port holds every other: the host keeps it and nothing changes but the
schedule, and no request instruction does anything (the latter is the model's way to say the hold, log entry 17). -/
def Obligations.PortHoldsRequestsWhileOneIsOutstanding : Prop :=
  (∀ (s : State) (rest : List Turn) (q : DWord) (ops : List HostOp),
    hostDoes s rest (.request q) ops → s.pend.valid = true → step s = .next { s with script := rest }) ∧
  (∀ s : State, s.pend.valid = true →
    (∀ cmd len, exec (.encode cmd len) s = .next s) ∧ (∀ off n, exec (.parse off n) s = .next s) ∧
    (∀ b, exec (.xfer b) s = .next s) ∧ (∀ dt, exec (.advance dt) s = .next s) ∧
    exec .tsync s = .next s ∧ exec .poll s = .next s ∧ exec .eoc s = .next s ∧ exec .pad s = .next s)

/-! ## ENCODE and the checksum -/

/-- R122, R98, R29, R63: ENCODE with its payload written completes with the frame in `OBUF`, `E_LEN` and `E_CSUM`,
and changes nothing else but the response. -/
def Obligations.EncodeResult : Prop :=
  ∀ (cmd len : Byte) (s : State) (p : List Byte), s.pend.valid = false → s.pbuf.bytes 0 len.toNat = some p →
    exec (.encode cmd len) s = .next (answered 0x00 .ok { s with
      obuf := s.obuf.setBytes 0 ([0x99, 0x66, cmd, 0x00, 0x00, len] ++ p
        ++ [(BitVec.ofNat 16 (windowSum cmd 0 0 len p)).extractLsb' 8 8,
            (BitVec.ofNat 16 (windowSum cmd 0 0 len p)).extractLsb' 0 8])
      eLen := BitVec.ofNat 16 (8 + len.toNat)
      eCsum := BitVec.ofNat 16 (windowSum cmd 0 0 len p) })

/-- The frame of ENCODE, byte by byte: `OBUF[0 .. 7+L]` reads as the emitted frame, every other byte of `OBUF` and
every byte of `PBUF` and `IBUF` reads as before (R122). -/
def Obligations.EncodeStoresTheFrameOnly : Prop :=
  ∀ (cmd len : Byte) (s t : State) (p : List Byte), s.pend.valid = false → s.pbuf.bytes 0 len.toNat = some p →
    exec (.encode cmd len) s = .next t →
      (∀ a, a < 6 → t.obuf.byte a = [0x99, 0x66, cmd, 0x00, 0x00, len][a]?) ∧
      (∀ k, k < len.toNat → t.obuf.byte (6 + k) = s.pbuf.byte k) ∧
      t.obuf.byte (6 + len.toNat) = some (BitVec.ofNat 8 (windowSum cmd 0 0 len p / 256)) ∧
      t.obuf.byte (7 + len.toNat) = some (BitVec.ofNat 8 (windowSum cmd 0 0 len p % 256)) ∧
      (∀ a, 8 + len.toNat ≤ a → t.obuf.byte a = s.obuf.byte a) ∧
      ∀ a, t.pbuf.byte a = s.pbuf.byte a ∧ t.ibuf.byte a = s.ibuf.byte a

/-- R120: the checksum is the sum of the window mod 65536, which is the same as adding in 16 bits with
wrap-around. -/
def Obligations.ChecksumIsTheWrappingSum : Prop :=
  ∀ (c r1 r2 len : Byte) (p : List Byte),
    (csum c r1 r2 len p).toNat = windowSum c r1 r2 len p % 65536 ∧
    csum c r1 r2 len p = p.foldl (fun acc b => acc + b.setWidth 16)
      (c.setWidth 16 + r1.setWidth 16 + r2.setWidth 16 + len.setWidth 16)

/-- R121: with zero reserved bytes the unreduced sum is at most 65535, so the encoder's checksum never wraps; with
others it reaches 66045 at most, and does, where the mod gives 0x01FD. -/
def Obligations.EncoderChecksumNeverWraps : Prop :=
  (∀ (c len : Byte) (p : List Byte), p.length = len.toNat →
    windowSum c 0 0 len p ≤ 65535 ∧ (csum c 0 0 len p).toNat = windowSum c 0 0 len p) ∧
  (∀ (c r1 r2 len : Byte) (p : List Byte), p.length = len.toNat → windowSum c r1 r2 len p ≤ 66045) ∧
  windowSum 0xFF 0xFF 0xFF 0xFF (List.replicate 255 0xFF) = 66045 ∧
  csum 0xFF 0xFF 0xFF 0xFF (List.replicate 255 0xFF) = 0x01FD

/-- R266: a block read of a buffer byte nobody has written since reset is the model fault `UNWRITTEN_READ`: a payload
byte of ENCODE; a byte of the magic marker, the length byte, or a byte of a frame that PARSE reaches. That PARSE
reads both bytes at the offset before it compares is the model's reading of R125 (log entry 7). -/
def Obligations.UnwrittenReadsFault : Prop :=
  (∀ (cmd len : Byte) (s : State) (k : Nat), s.pend.valid = false → k < len.toNat → s.pbuf.byte k = none →
    exec (.encode cmd len) s = .fault .unwrittenRead) ∧
  (∀ (off n : Half) (s : State), s.pend.valid = false → n.toNat ≤ s.params.ibufSize → off.toNat + 2 ≤ n.toNat →
    (s.ibuf.byte off.toNat = none ∨ s.ibuf.byte (off.toNat + 1) = none) →
      exec (.parse off n) s = .fault .unwrittenRead) ∧
  (∀ (off n : Half) (s : State), s.pend.valid = false → n.toNat ≤ s.params.ibufSize → off.toNat + 6 ≤ n.toNat →
    s.ibuf.byte off.toNat = some 0x99 → s.ibuf.byte (off.toNat + 1) = some 0x66 →
    s.ibuf.byte (off.toNat + 5) = none → exec (.parse off n) s = .fault .unwrittenRead) ∧
  (∀ (off n : Half) (s : State) (len : Byte) (k : Nat), s.pend.valid = false → n.toNat ≤ s.params.ibufSize →
    s.ibuf.byte off.toNat = some 0x99 → s.ibuf.byte (off.toNat + 1) = some 0x66 →
    s.ibuf.byte (off.toNat + 5) = some len → off.toNat + 10 + len.toNat ≤ n.toNat →
    off.toNat + 2 ≤ k → k < off.toNat + 10 + len.toNat → s.ibuf.byte k = none →
      exec (.parse off n) s = .fault .unwrittenRead)

/-! ## PARSE -/

/-- R123, R129 to R132, R30, R31: a complete frame inside the supplied bytes matches, whatever its checksum and
reserved bytes; every `P_*` register takes the value the rules give, and nothing else changes but the response. -/
def Obligations.ParseMatchedFrame : Prop :=
  ∀ (off n : Half) (s : State) (cmd r1 r2 len hi lo dev ack : Byte) (p : List Byte), s.pend.valid = false →
    n.toNat ≤ s.params.ibufSize → off.toNat + 10 + len.toNat ≤ n.toNat → p.length = len.toNat →
    s.ibuf.bytes off.toNat (10 + len.toNat) = some (wireFrame cmd r1 r2 len p hi lo dev ack) →
      exec (.parse off n) s = .next (answered 0x00 .ok { s with parse :=
        { find := BitVec.ofBool (r1 ≠ 0 ∨ r2 ≠ 0) ++
            BitVec.ofBool (windowSum cmd r1 r2 len p % 65536 ≠ hi.toNat * 256 + lo.toNat)
          cmd := cmd
          r1 := r1
          r2 := r2
          len := len
          csumCalc := BitVec.ofNat 16 (windowSum cmd r1 r2 len p)
          csumRx := BitVec.ofNat 16 (hi.toNat * 256 + lo.toNat)
          dev := dev
          ack := ack
          consumed := BitVec.ofNat 16 (10 + len.toNat)
          pbase := BitVec.ofNat 16 (off.toNat + 6) } })

/-- R124: PARSE answers `BAD_REQUEST` when `n > IBUF_SIZE` or `o > n`, whatever the buffer holds. -/
def Obligations.ParseChecksItsBounds : Prop :=
  ∀ (off n : Half) (s : State), s.pend.valid = false → (n.toNat > s.params.ibufSize ∨ off.toNat > n.toNat) →
    exec (.parse off n) s = .next (answered 0x10 .badRequest s)

/-- R125: fewer than two bytes at the offset, or two bytes that are not `99 66`, give `NOMATCH`, and only those two
bytes matter. -/
def Obligations.ParseDetectsTheMagic : Prop :=
  ∀ (off n : Half) (s : State), s.pend.valid = false → n.toNat ≤ s.params.ibufSize → off.toNat ≤ n.toNat →
    (off.toNat + 2 > n.toNat → exec (.parse off n) s = .next (answered 0x01 .noMatch s)) ∧
    (∀ b0 b1 : Byte, off.toNat + 2 ≤ n.toNat → s.ibuf.byte off.toNat = some b0 →
      s.ibuf.byte (off.toNat + 1) = some b1 → ¬ (b0 = 0x99 ∧ b1 = 0x66) →
        exec (.parse off n) s = .next (answered 0x01 .noMatch s))

/-- R126, R128: with the magic matched, a header that is not all inside the supplied bytes, or a frame whose
`10 + L` bytes are not, gives `INCOMPLETE`. -/
def Obligations.ParseIncompleteFrame : Prop :=
  ∀ (off n : Half) (s : State), s.pend.valid = false → n.toNat ≤ s.params.ibufSize → off.toNat + 2 ≤ n.toNat →
    s.ibuf.byte off.toNat = some 0x99 → s.ibuf.byte (off.toNat + 1) = some 0x66 →
    (off.toNat + 6 > n.toNat → exec (.parse off n) s = .next (answered 0x02 .incomplete s)) ∧
    (∀ len : Byte, off.toNat + 6 ≤ n.toNat → s.ibuf.byte (off.toNat + 5) = some len →
      off.toNat + 10 + len.toNat > n.toNat → exec (.parse off n) s = .next (answered 0x02 .incomplete s))

/-- The frame of PARSE: it changes the `P_*` registers and the response only, and those registers only on `OK`
(R30, R69, R123). -/
def Obligations.ParseChangesOnlyItsRegisters : Prop :=
  ∀ (off n : Half) (s t : State), s.pend.valid = false → exec (.parse off n) s = .next t →
    ∃ st : Status, t.respHist = s.respHist ++ [st] ∧ t.response = some st ∧
      t = { s with parse := t.parse, lastStatus := t.lastStatus, response := t.response, respHist := t.respHist } ∧
      (st = .ok ∧ t.lastStatus = 0x00 ∨
        (st = .noMatch ∧ t.lastStatus = 0x01 ∨ st = .incomplete ∧ t.lastStatus = 0x02 ∨
          st = .badRequest ∧ t.lastStatus = 0x10) ∧ t.parse = s.parse)

/-- R69: PARSE and ENCODE are idempotent. A second request over unchanged buffers gives the same status and writes
the same registers and bytes. -/
def Obligations.CodecIsIdempotent : Prop :=
  (∀ (off n : Half) (s t : State), s.pend.valid = false → exec (.parse off n) s = .next t →
    ∃ st : Status, t.response = some st ∧
      exec (.parse off n) t = .next { t with respHist := t.respHist ++ [st] }) ∧
  (∀ (cmd len : Byte) (s t : State), s.pend.valid = false → exec (.encode cmd len) s = .next t →
    ∃ u : State, exec (.encode cmd len) t = .next u ∧
      u = { t with obuf := u.obuf, respHist := t.respHist ++ [.ok] } ∧ ∀ a, u.obuf.byte a = t.obuf.byte a)

/-- The codec does not depend on `LSTATE`: ENCODE and PARSE do the same in every link state (R122, R292). -/
def Obligations.CodecIgnoresTheLink : Prop :=
  ∀ (s : State) (l : LinkState) (i : Instr), ((∃ cmd len, i = .encode cmd len) ∨ ∃ off n, i = .parse off n) →
    (∀ t, exec i s = .next t → exec i { s with lstate := l } = .next { t with lstate := l }) ∧
    ∀ f, exec i s = .fault f → exec i { s with lstate := l } = .fault f

/-- R134: parsing what ENCODE emitted, followed by any two trailer bytes, at any place of any ready machine's
`IBUF`, gives back command and payload with no finding; without the two trailing bytes it gives `INCOMPLETE`. -/
def Obligations.EncodeParseRoundTrip : Prop :=
  ∀ (cmd len : Byte) (s : State) (p : List Byte), s.pend.valid = false → s.pbuf.bytes 0 len.toNat = some p →
    ∃ (t : State) (emitted : List Byte), exec (.encode cmd len) s = .next t ∧
      t.obuf.bytes 0 (8 + len.toNat) = some emitted ∧
      ∀ (u : State) (off n : Half), u.pend.valid = false → n.toNat ≤ u.params.ibufSize →
        (∀ dev ack : Byte, off.toNat + 10 + len.toNat ≤ n.toNat →
          u.ibuf.bytes off.toNat (10 + len.toNat) = some (emitted ++ [dev, ack]) →
            ∃ v : State, exec (.parse off n) u = .next v ∧ v.lastStatus = 0x00 ∧ v.parse.cmd = cmd ∧
              v.parse.len = len ∧ v.ibuf.bytes v.parse.pbase.toNat len.toNat = some p ∧ v.parse.find = 0 ∧
              v.parse.dev = dev ∧ v.parse.ack = ack ∧ v.parse.consumed.toNat = 10 + len.toNat) ∧
        (n.toNat = off.toNat + 8 + len.toNat → u.ibuf.bytes off.toNat (8 + len.toNat) = some emitted →
          exec (.parse off n) u = .next (answered 0x02 .incomplete u))

/-- R135: from a complete frame without a checksum finding, a flip of one bit of the command byte, a reserved byte, a
payload byte or a checksum byte sets `CSUM_MISMATCH`, and PARSE still answers `OK`. The length byte, the one other byte
of the window, is excepted: there the claim fails (90_conflicts.md C3). -/
def Obligations.FlippedBitButOfLengthIsReported : Prop :=
  ∀ (off n : Half) (s t : State) (a k : Nat) (b : Byte), s.pend.valid = false → exec (.parse off n) s = .next t →
    t.respHist = s.respHist ++ [.ok] → t.parse.find.getLsbD 0 = false → k < 8 → s.ibuf.byte a = some b →
    (a = off.toNat + 2 ∨ a = off.toNat + 3 ∨ a = off.toNat + 4 ∨
      (off.toNat + 6 ≤ a ∧ a < off.toNat + 8 + t.parse.len.toNat)) →
      ∃ u : State, exec (.parse off n) { s with ibuf := s.ibuf.setByte a (b ^^^ (1#8 <<< k)) } = .next u ∧
        u.lastStatus = 0x00 ∧ u.parse.find.getLsbD 0 = true

/-- R135: a flip in the device-identity or ack byte changes only `P_DEV` or `P_ACK`; a flip in a magic byte gives
`NOMATCH`. -/
def Obligations.FlippedTrailerOrMagicBit : Prop :=
  ∀ (off n : Half) (s t : State) (a k : Nat) (b : Byte), s.pend.valid = false → exec (.parse off n) s = .next t →
    t.respHist = s.respHist ++ [.ok] → k < 8 → s.ibuf.byte a = some b →
    (a = off.toNat + 8 + t.parse.len.toNat →
      exec (.parse off n) { s with ibuf := s.ibuf.setByte a (b ^^^ (1#8 <<< k)) } = .next { t with
        ibuf := s.ibuf.setByte a (b ^^^ (1#8 <<< k))
        parse := { t.parse with dev := b ^^^ (1#8 <<< k) } }) ∧
    (a = off.toNat + 9 + t.parse.len.toNat →
      exec (.parse off n) { s with ibuf := s.ibuf.setByte a (b ^^^ (1#8 <<< k)) } = .next { t with
        ibuf := s.ibuf.setByte a (b ^^^ (1#8 <<< k))
        parse := { t.parse with ack := b ^^^ (1#8 <<< k) } }) ∧
    ((a = off.toNat ∨ a = off.toNat + 1) →
      exec (.parse off n) { s with ibuf := s.ibuf.setByte a (b ^^^ (1#8 <<< k)) } =
        .next (answered 0x01 .noMatch { s with ibuf := s.ibuf.setByte a (b ^^^ (1#8 <<< k)) }))

/-! ## XFER, ADVANCE and the timestamp -/

/-- R170, R171, R92, R162, R163: in READY the start step of XFER (and of POLL, EOC, PAD) sends the request record,
writes `X_TS`, fills the pending slot, and changes nothing else; the request stays outstanding. -/
def Obligations.XferStartSendsTheRequest : Prop :=
  ∀ (b : Byte) (i : Instr) (s : State),
    (i = .xfer b ∨ (i = .poll ∧ b = 0x4B) ∨ (i = .eoc ∧ b = 0x80) ∨ (i = .pad ∧ b = 0x00)) →
    s.pend.valid = false → s.lstate = .ready →
      exec i s = .next { s with
        response := none
        txHist := s.txHist ++ [builtRecord 0x68 b s.params.ctrlReq 0x00 (stampAt s.clock s.timeOffset)]
        xTs := stampAt s.clock s.timeOffset
        pend := { valid := true, tx := b, ts := stampAt s.clock s.timeOffset, t0 := s.clock } }

/-- R178, R94: in READY, ADVANCE (and TSYNC, with `dt = 0`) adds `dt` to `TIME_OFFSET` mod 2^64, sends the time-sync
record with the new timestamp, answers `OK`, and changes nothing else. -/
def Obligations.AdvanceSendsTheNewTime : Prop :=
  ∀ (dt : Word) (i : Instr) (s : State), (i = .advance dt ∨ (i = .tsync ∧ dt = 0)) →
    s.pend.valid = false → s.lstate = .ready →
      ∃ offset : DWord, offset.toNat = (s.timeOffset.toNat + dt.toNat) % 2 ^ 64 ∧
        exec i s = .next (answered 0x00 .ok { s with
          timeOffset := offset
          txHist := s.txHist ++ [builtRecord 0x6A 0x00 0x00 0x00 (stampAt s.clock offset)] })

/-- R264: XFER, ADVANCE and their pseudo-instructions outside READY change no state but `LAST_STATUS`, send and log
nothing, and answer `NOT_READY`. -/
def Obligations.LinkRequestsNeedReady : Prop :=
  ∀ (i : Instr) (s : State),
    ((∃ b, i = .xfer b) ∨ (∃ dt, i = .advance dt) ∨ i = .tsync ∨ i = .poll ∨ i = .eoc ∨ i = .pad) →
    s.pend.valid = false → s.lstate ≠ .ready → exec i s = .next (answered 0x11 .notReady s)

/-- R162, R179 (b): the timestamp is `Now() + TIME_OFFSET` mod 2^31, the low 31 bits of the 64-bit sum; with the same
offset it does not fall within one 2^31-tick period, and it falls where one such boundary is crossed in less than a
period. -/
def Obligations.TimestampFormulaAndOrder : Prop :=
  (∀ now offset : DWord, (stampOf now offset).toNat = (now.toNat + offset.toNat) % 2 ^ 31 ∧
    stampOf now offset = (now + offset).setWidth 31) ∧
  ∀ n1 n2 offset : DWord, n1 ≤ n2 →
    ((n1.toNat + offset.toNat) / 2 ^ 31 = (n2.toNat + offset.toNat) / 2 ^ 31 →
      stampOf n1 offset ≤ stampOf n2 offset) ∧
    ((n1.toNat + offset.toNat) / 2 ^ 31 + 1 = (n2.toNat + offset.toNat) / 2 ^ 31 →
      n2.toNat - n1.toNat < 2 ^ 31 → stampOf n2 offset < stampOf n1 offset)

/-- R179 (a): an `ADVANCE 0` before an XFER changes no byte of its request record but the timestamp bytes, whenever
the clock reads what. -/
def Obligations.ZeroAdvanceKeepsXferBytes : Prop :=
  ∀ (b : Byte) (s t : State) (c c' : DWord), s.pend.valid = false → s.lstate = .ready → exec .tsync s = .next t →
    ∃ (u v : State) (r r' : Record), exec (.xfer b) { s with clock := c } = .next u ∧
      exec (.xfer b) { t with clock := c' } = .next v ∧ u.txHist = s.txHist ++ [r] ∧ v.txHist = t.txHist ++ [r'] ∧
      r.code = r'.code ∧ r.fieldB = r'.fieldB ∧ r.fieldC = r'.fieldC ∧ r.fieldD = r'.fieldD

/-! ## Inbound records -/

/-- R166: in HANDSHAKING the head record is taken off; bytes 0 to 3 equal to `01 01 04 00` send the identical record
back and make the link READY, anything else is logged and makes it FAILED, where no record is processed any more. -/
def Obligations.HandshakeEchoesOrFails : Prop :=
  (∀ (s : State) (rest : List Turn), s.script = .receive :: rest → s.lstate = .failed →
    step s = .next { s with script := rest }) ∧
  ∀ (s : State) (rest : List Turn) (r : Record) (rs : List Record), s.script = .receive :: rest →
    s.lstate = .handshaking → s.rxq = r :: rs →
      step s = .next (if r.code = 0x01 ∧ r.fieldB = 0x01 ∧ r.fieldC = 0x04 ∧ r.fieldD = 0x00 then
        { s with script := rest, rxq := rs, txHist := s.txHist ++ [r], lstate := .ready }
      else
        { s with
          script := rest
          rxq := rs
          logHist := s.logHist ++ [⟨.handshakeMismatch, r.code ++ r.fieldB ++ r.fieldC ++ r.fieldD⟩]
          lstate := .failed })

/-- R172, R93: a data-exchange reply completes the pending XFER with its `field_b`, ignores its other fields, and
changes nothing else but the queue and the response. -/
def Obligations.ReplyCompletesTheXfer : Prop :=
  ∀ (b c d : Byte) (ts : Word) (s : State), s.lstate = .ready → s.pend.valid = true →
    exec (.recXferReply b c d ts) s = .next (answered 0x00 .ok { s with
      rxq := s.rxq.tail
      xRx := b
      pend := { s.pend with valid := false } })

/-- R181, R184: joypad, status and disconnect-request records are dropped silently; the XFER keeps waiting and the
link stays up. -/
def Obligations.InformationalRecordsAreDropped : Prop :=
  ∀ (b c d : Byte) (ts : Word) (i : Instr) (s : State),
    (i = .recJoypad b c d ts ∨ i = .recStatus b c d ts ∨ i = .recDisconnectReq b c d ts) →
    s.lstate = .ready → s.pend.valid = true → exec i s = .next { s with rxq := s.rxq.tail }

/-- R180, R182, R183: a version, data-exchange-request or time-sync record in READY is dropped and logged as
`UNEXPECTED_EVENT` with its code; nothing else changes, `TIME_OFFSET` among it. -/
def Obligations.UnexpectedRecordsAreLogged : Prop :=
  ∀ (b c d : Byte) (ts : Word) (i : Instr) (code : Word) (s : State),
    ((i = .recVersion b c d ts ∧ code = 0x01) ∨ (i = .recXferReq b c d ts ∧ code = 0x68) ∨
      (i = .recTimeSync b c d ts ∧ code = 0x6A)) →
    s.lstate = .ready → s.pend.valid = true →
      exec i s = .next { s with rxq := s.rxq.tail, logHist := s.logHist ++ [⟨.unexpectedEvent, code⟩] }

/-- R185, R96: a record of any other code is the unknown record of its code; in READY it is dropped and logged as
`UNKNOWN_EVENT` with that code. -/
def Obligations.UnknownRecordsAreLogged : Prop :=
  (∀ r : Record, r.code ∉ [0x01, 0x65, 0x68, 0x69, 0x6A, 0x6C, 0x6D] →
    decode (.record r) = .ok (.recUnknown r.code r.fieldB r.fieldC r.fieldD r.ts)) ∧
  ∀ (code b c d : Byte) (ts : Word) (s : State), s.lstate = .ready → s.pend.valid = true →
    exec (.recUnknown code b c d ts) s = .next { s with
      rxq := s.rxq.tail
      logHist := s.logHist ++ [⟨.unknownEvent, BitVec.ofNat 32 code.toNat⟩] }

/-- R167: outside HANDSHAKING, and outside READY with an XFER pending, no record is processed and the queue stays;
with an empty queue nothing is processed either. -/
def Obligations.QueueWaitsWhereNothingIsProcessed : Prop :=
  (∀ (s : State) (rest : List Turn), s.script = .receive :: rest →
    (s.rxq = [] ∨ (s.lstate ≠ .handshaking ∧ ¬ (s.lstate = .ready ∧ s.pend.valid = true))) →
      step s = .next { s with script := rest }) ∧
  ∀ (s : State) (code b c d : Byte) (ts : Word),
    s.lstate ≠ .handshaking → ¬ (s.lstate = .ready ∧ s.pend.valid = true) →
      ∀ i ∈ [Instr.recVersion b c d ts, .recJoypad b c d ts, .recXferReq b c d ts, .recXferReply b c d ts,
        .recTimeSync b c d ts, .recStatus b c d ts, .recDisconnectReq b c d ts, .recUnknown code b c d ts],
        exec i s = .next s

/-! ## Peer, timeout, reset, read port -/

/-- R164, R165, R25: the peer connects only while LISTENING, and pushes a record to the tail of the queue only while
HANDSHAKING or READY and not full; elsewhere it waits with its step. -/
def Obligations.PeerConnectsAndPushes : Prop :=
  (∀ (s : State) (rest : List Turn) (ops : List PeerOp), s.script = .peer :: rest → s.peer = .connect :: ops →
    step s = .next (if s.lstate = .listening then { s with script := rest, peer := ops, lstate := .handshaking }
      else { s with script := rest })) ∧
  ∀ (s : State) (rest : List Turn) (r : Record) (ops : List PeerOp), s.script = .peer :: rest →
    s.peer = .push r :: ops →
      step s = .next (if (s.lstate = .handshaking ∨ s.lstate = .ready) ∧ s.rxq.length < s.params.rxqDepth then
        { s with script := rest, peer := ops, rxq := s.rxq ++ [r] } else { s with script := rest })

/-- R187: a lost connection closes the link, empties the queue, is logged, and ends a pending XFER with `LINK_LOST`;
`TIME_OFFSET` and the result registers keep their values. It is enabled while HANDSHAKING or READY. -/
def Obligations.PeerLossClosesTheLink : Prop :=
  ∀ (s : State) (rest : List Turn) (ops : List PeerOp), s.script = .peer :: rest → s.peer = .lost :: ops →
    (s.lstate ≠ .handshaking → s.lstate ≠ .ready → step s = .next { s with script := rest }) ∧
    ((s.lstate = .handshaking ∨ s.lstate = .ready) → s.pend.valid = false → step s = .next { s with
      script := rest
      peer := ops
      lstate := .closed
      rxq := []
      logHist := s.logHist ++ [⟨.linkLost, 0⟩] }) ∧
    ((s.lstate = .handshaking ∨ s.lstate = .ready) → s.pend.valid = true → step s = .next (answered 0x20 .linkLost
      { s with
        script := rest
        peer := ops
        lstate := .closed
        rxq := []
        logHist := s.logHist ++ [⟨.linkLost, 0⟩]
        pend := { s.pend with valid := false } }))

/-- R175: with an XFER pending in READY and `XFER_TIMEOUT` ticks gone since it was sent, the timeout step ends it with
`TIMEOUT`, closes the link and logs the byte; sooner, or with `XFER_TIMEOUT = NONE`, it does nothing. -/
def Obligations.XferTimeoutClosesTheLink : Prop :=
  ∀ (s : State) (rest : List Turn), s.script = .timeout :: rest → s.lstate = .ready → s.pend.valid = true →
    (s.params.xferTimeout = none → step s = .next { s with script := rest }) ∧
    ∀ limit, s.params.xferTimeout = some limit →
      step s = .next (if (s.clock.toNat : Int) - s.pend.t0.toNat ≥ limit then
        answered 0x21 .timeout { s with
          script := rest
          pend := { s.pend with valid := false }
          lstate := .closed
          logHist := s.logHist ++ [⟨.timeout, BitVec.ofNat 32 s.pend.tx.toNat⟩] }
      else { s with script := rest })

/-- R290: the state after reset. -/
def Obligations.ResetValues : Prop :=
  State.reset.lstate = .listening ∧ State.reset.timeOffset = 0 ∧ State.reset.pend = ⟨false, 0, 0, 0⟩ ∧
  State.reset.rxq = [] ∧ State.reset.lastStatus = 0x00 ∧ State.reset.xRx = 0 ∧ State.reset.xTs = 0 ∧
  State.reset.eLen = 0 ∧ State.reset.eCsum = 0 ∧ State.reset.parse = ⟨0, 0, 0, 0, 0, 0, 0, 0, 0, 0, 0⟩ ∧
  (∀ a, State.reset.pbuf.byte a = none ∧ State.reset.obuf.byte a = none ∧ State.reset.ibuf.byte a = none) ∧
  State.reset.response = none ∧ State.reset.txHist = [] ∧ State.reset.logHist = [] ∧ State.reset.respHist = []

/-- R291: reset during a run gives every piece of block state its reset value, ends an outstanding request with no
response, and drops the queue. That the parameters, the clock, the peer and the host keep theirs and that the
histories start anew is the model's reading (log entry 16). -/
def Obligations.ResetTurnClearsTheBlock : Prop :=
  ∀ (s : State) (rest : List Turn), s.script = .reset :: rest →
    step s = .next { s with
      script := rest
      lstate := .listening
      timeOffset := 0
      pend := ⟨false, 0, 0, 0⟩
      rxq := []
      lastStatus := 0x00
      xRx := 0
      xTs := 0
      eLen := 0
      eCsum := 0
      parse := ⟨0, 0, 0, 0, 0, 0, 0, 0, 0, 0, 0⟩
      pbuf := []
      obuf := []
      ibuf := []
      response := none
      txHist := []
      logHist := []
      respHist := [] }

/-- R32: what each index of the read port reads, and that a read, also while an XFER is pending, has no effect but on
what the host has seen. That the occupancy is reduced mod 2^16 is the model's reading of R12 (log entry 14). -/
def Obligations.ReadPortMap : Prop :=
  (∀ s : State,
    (readPort s 0x00).toNat = (match s.lstate with
      | .listening => 0 | .handshaking => 1 | .ready => 2 | .failed => 3 | .closed => 4) ∧
    (readPort s 0x01).toNat = s.lastStatus.toNat ∧
    (readPort s 0x02).toNat + (readPort s 0x03).toNat * 2 ^ 32 = s.timeOffset.toNat ∧
    (readPort s 0x04).toNat = s.pend.tx.toNat * 256 + s.pend.valid.toNat ∧
    (readPort s 0x05).toNat = s.xRx.toNat ∧ (readPort s 0x06).toNat = s.xTs.toNat ∧
    (readPort s 0x07).toNat = s.eLen.toNat ∧ (readPort s 0x08).toNat = s.eCsum.toNat ∧
    (readPort s 0x09).toNat = s.parse.find.toNat ∧ (readPort s 0x0A).toNat = s.parse.cmd.toNat ∧
    (readPort s 0x0B).toNat = s.parse.r1.toNat ∧ (readPort s 0x0C).toNat = s.parse.r2.toNat ∧
    (readPort s 0x0D).toNat = s.parse.len.toNat ∧ (readPort s 0x0E).toNat = s.parse.csumCalc.toNat ∧
    (readPort s 0x0F).toNat = s.parse.csumRx.toNat ∧ (readPort s 0x10).toNat = s.parse.dev.toNat ∧
    (readPort s 0x11).toNat = s.parse.ack.toNat ∧ (readPort s 0x12).toNat = s.parse.consumed.toNat ∧
    (readPort s 0x13).toNat = s.parse.pbase.toNat ∧ (readPort s 0x14).toNat = s.rxq.length % 65536 ∧
    ∀ index : Byte, 0x14 < index.toNat → readPort s index = 0) ∧
  ∀ (s : State) (rest : List Turn) (index : Byte) (ops : List HostOp), hostDoes s rest (.readReg index) ops →
    step s = .next { s with
      script := rest
      host := { s.host with queue := ops, seen := s.host.seen ++ [.reg index (readPort s index)] } }

/-! ## Properties of every step -/

/-- R160, R21: without reset, `LSTATE` moves only as the table of R160 lists, and never leaves FAILED or CLOSED. -/
def Obligations.LinkMovesOnlyAsListed : Prop :=
  ∀ s t : State, step s = .next t → s.script.head? ≠ some .reset →
    t.lstate = s.lstate ∨ (s.lstate = .listening ∧ t.lstate = .handshaking) ∨
      (s.lstate = .handshaking ∧ (t.lstate = .ready ∨ t.lstate = .failed ∨ t.lstate = .closed)) ∨
      (s.lstate = .ready ∧ t.lstate = .closed)

/-- Every step keeps the invariant: the parameters legal, the buffers canonical and inside their sizes, a pending
XFER only in READY with its slot as filled, the queue within its capacity and empty while LISTENING, `P_FIND` in
agreement with the PARSE registers, `LAST_STATUS` the code of the last response. -/
def Obligations.StepKeepsTheInvariant : Prop := ∀ s t : State, s.Inv → step s = .next t → t.Inv

/-- The invariant holds after reset. -/
def Obligations.ResetMeetsTheInvariant : Prop := State.reset.Inv

/-- No step changes a parameter, and the wall clock never decreases (R10, R161). -/
def Obligations.StepKeepsParametersAndClock : Prop :=
  ∀ s t : State, step s = .next t → t.params = s.params ∧ s.clock ≤ t.clock

/-- R22: without reset, only ADVANCE writes `TIME_OFFSET`: a step that changes it is a turn of the host in READY that
adds a 32-bit tick count, sends one time-sync record and answers `OK`. -/
def Obligations.OnlyAdvanceMovesTimeOffset : Prop :=
  ∀ s t : State, step s = .next t → s.script.head? ≠ some .reset → t.timeOffset ≠ s.timeOffset →
    s.script.head? = some .host ∧ s.lstate = .ready ∧ s.pend.valid = false ∧
    ∃ dt : Word, t.timeOffset = s.timeOffset + dt.setWidth 64 ∧
      t.txHist = s.txHist ++ [builtRecord 0x6A 0x00 0x00 0x00 (stampAt s.clock t.timeOffset)] ∧
      t.respHist = s.respHist ++ [.ok]

/-- R163, R268, R88: without reset the output streams only grow, by at most one entry a step, and a record is sent
only while the link is HANDSHAKING or READY. -/
def Obligations.StreamsGrowByOneEntry : Prop :=
  ∀ s t : State, step s = .next t → s.script.head? ≠ some .reset →
    (t.txHist = s.txHist ∨ ((s.lstate = .handshaking ∨ s.lstate = .ready) ∧ ∃ r, t.txHist = s.txHist ++ [r])) ∧
    (t.logHist = s.logHist ∨ ∃ e, t.logHist = s.logHist ++ [e]) ∧
    (t.respHist = s.respHist ∨ ∃ st, t.respHist = s.respHist ++ [st])

/-- R26, R28 to R31: without reset each result register changes only in its own operation: the PARSE registers and the
ENCODE results in a turn of the host that ends `OK` and sends nothing, `X_RX` in the completion of an XFER, `X_TS` in
the start of one. -/
def Obligations.ResultRegistersHaveOneWriter : Prop :=
  ∀ s t : State, step s = .next t → s.script.head? ≠ some .reset →
    ((t.parse ≠ s.parse ∨ t.obuf ≠ s.obuf ∨ t.eLen ≠ s.eLen ∨ t.eCsum ≠ s.eCsum) →
      s.script.head? = some .host ∧ t.respHist = s.respHist ++ [.ok] ∧ t.txHist = s.txHist) ∧
    (t.parse ≠ s.parse → t.obuf = s.obuf ∧ t.eLen = s.eLen ∧ t.eCsum = s.eCsum) ∧
    (t.xRx ≠ s.xRx → s.script.head? = some .receive ∧ s.pend.valid = true ∧ t.pend.valid = false ∧
      t.respHist = s.respHist ++ [.ok]) ∧
    (t.xTs ≠ s.xTs → s.script.head? = some .host ∧ s.pend.valid = false ∧ t.pend.valid = true ∧
      t.pend.ts = t.xTs ∧ ∃ r, t.txHist = s.txHist ++ [r])

/-- R176: with `XFER_TIMEOUT = NONE` and no reply at the head of the queue, no step of the host, the clock or the core
ends a pending XFER: it goes on holding the port. -/
def Obligations.PendingXferOutlastsASilentPeer : Prop :=
  ∀ s t : State, step s = .next t → s.lstate = .ready → s.pend.valid = true → s.params.xferTimeout = none →
    (∀ r ∈ s.rxq.head?, r.code ≠ 0x69) → s.script.head? ≠ some .peer → s.script.head? ≠ some .reset →
      t.pend = s.pend ∧ t.lstate = .ready ∧ t.respHist = s.respHist

/-! ## The host layer -/

/-- R76, R266, R60: a host write to `PBUF` or `IBUF` with nothing outstanding writes its bytes and nothing else; while
a request is outstanding it is `HOST_HAZARD`; past the buffer's end it is a fault of the model (log entry 6). -/
def Obligations.HostBufferWrites : Prop :=
  (∀ (s : State) (rest : List Turn) (i : Nat) (bs : List Byte) (ops : List HostOp),
    hostDoes s rest (.writePbuf i bs) ops →
      (s.pend.valid = true → step s = .fault .hostHazard) ∧
      (s.pend.valid = false → i + bs.length > 256 → step s = .fault .noSuchByte) ∧
      (s.pend.valid = false → i + bs.length ≤ 256 → ∃ t : State, step s = .next t ∧
        t = { hostDone ops rest s with pbuf := t.pbuf } ∧
        (∀ k, k < bs.length → t.pbuf.byte (i + k) = bs[k]?) ∧
        ∀ a, (a < i ∨ i + bs.length ≤ a) → t.pbuf.byte a = s.pbuf.byte a)) ∧
  ∀ (s : State) (rest : List Turn) (i : Nat) (bs : List Byte) (ops : List HostOp),
    hostDoes s rest (.writeIbuf i bs) ops →
      (s.pend.valid = true → step s = .fault .hostHazard) ∧
      (s.pend.valid = false → i + bs.length > s.params.ibufSize → step s = .fault .noSuchByte) ∧
      (s.pend.valid = false → i + bs.length ≤ s.params.ibufSize → ∃ t : State, step s = .next t ∧
        t = { hostDone ops rest s with ibuf := t.ibuf } ∧
        (∀ k, k < bs.length → t.ibuf.byte (i + k) = bs[k]?) ∧
        ∀ a, (a < i ∨ i + bs.length ≤ a) → t.ibuf.byte a = s.ibuf.byte a)

/-- R220, R214, R213: each of the 21 commands starts the driver's exchange with its id and payload; transfer-data
with an empty payload first sets the no-response latch. A busy host starts nothing, and a payload over 255 bytes is
refused (log entries 17 and 12). That an instruction of these rows is the start of the call is the model's reading
(log entry 3), and that id 0x15 is always called by its wrapper is its choice (log entry 25). -/
def Obligations.CommandStartsTheDriver : Prop :=
  ∀ (p : List Byte) (s : State),
    ∀ row ∈ [((0x10 : Byte), Instr.cmdBeginSession p), (0x11, .cmdEndSession p), (0x12, .cmdDial p),
      (0x13, .cmdHangUp p), (0x14, .cmdWaitForCall p), (0x15, .cmdTransferData p), (0x16, .cmdReset p),
      (0x17, .cmdTelephoneStatus p), (0x18, .cmdSio32Mode p), (0x19, .cmdReadConfig p), (0x1A, .cmdWriteConfig p),
      (0x1F, .cmdTransferDataEnd p), (0x21, .cmdIspLogin p), (0x22, .cmdIspLogout p), (0x23, .cmdOpenTcp p),
      (0x24, .cmdCloseTcp p), (0x25, .cmdOpenUdp p), (0x26, .cmdCloseUdp p), (0x28, .cmdDnsQuery p),
      (0x3F, .cmdFirmwareVersion p), (0x6E, .cmdError p)],
      (p.length ≤ 255 → s.host.driver = none → s.host.scan = none →
        exec row.2 s = .next { s with host := { s.host with
          driver := some { cmd := row.1, payload := p, phase := .tsync, waiting := false, header := [], body := [],
                           csumHi := 0 }
          session := { s.host.session with transferNoResponse :=
            s.host.session.transferNoResponse || (row.1 == 0x15 && p.isEmpty) } } }) ∧
      (p.length ≤ 255 → (s.host.driver ≠ none ∨ s.host.scan ≠ none) → exec row.2 s = .next s) ∧
      (255 < p.length → exec row.2 s = .refused (.payloadTooLong p.length))

/-- R214 to R217: what the driver issues in each phase, with the port ready; while it is not, the driver waits. That
the own device byte is learned with the issue of the first marker is the model's reading of R212 (log entry 11). -/
def Obligations.DriverIssuesItsRequests : Prop :=
  ∀ (s : State) (rest : List Turn) (d : DriverRun), s.script = .host :: rest → s.host.driver = some d →
    d.waiting = false →
    (s.pend.valid = true → d.phase ≠ .load → step s = .next { s with script := rest }) ∧
    (s.pend.valid = false →
      (d.phase = .tsync → step s = exec .tsync (driverAt { d with waiting := true } rest s)) ∧
      (d.phase = .load → d.payload.length ≤ 255 → step s = .next { driverAt { d with phase := .encode } rest s with
        pbuf := s.pbuf.setBytes 0 d.payload }) ∧
      (d.phase = .encode → step s = exec (.encode d.cmd (BitVec.ofNat 8 d.payload.length))
        (driverAt { d with waiting := true } rest s)) ∧
      (∀ (k : Nat) (b : Byte), d.phase = .frame k → s.obuf.byte k = some b →
        step s = exec (.xfer b) (driverAt { d with waiting := true } rest s)) ∧
      (d.phase = .eoc → step s = exec .eoc { s with
        script := rest
        host := { s.host with
          driver := some { d with waiting := true }
          session := { s.host.session with localDeviceId := some (s.host.session.localDeviceId.getD 0x80) } } }) ∧
      (d.phase = .pad → step s = exec .pad (driverAt { d with waiting := true } rest s)) ∧
      ((d.phase = .magic1 ∨ d.phase = .magic2 ∨ d.phase = .header ∨ d.phase = .body ∨ d.phase = .csumHi ∨
        d.phase = .csumLo) → step s = exec .poll (driverAt { d with waiting := true } rest s)) ∧
      (d.phase = .confirmEoc → step s = exec .eoc (driverAt { d with waiting := true } rest s)) ∧
      (∀ h0 : Byte, d.phase = .confirm → d.header[0]? = some h0 →
        step s = exec (.xfer (h0 ^^^ 0x80)) (driverAt { d with waiting := true } rest s)))

/-- R214 step 2, R219: every frame byte must elicit `0xD2`; the driver goes on to the next byte, and after the last,
`OBUF[7+L]`, to the end-of-command marker. A request that ends otherwise than `OK` ends the call with its status (for
statuses but `LINK_LOST` and `TIMEOUT` the model's choice, log entry 10). -/
def Obligations.DriverPushesTheFrame : Prop :=
  (∀ (s : State) (rest : List Turn) (d : DriverRun) (k : Nat), driverTakes s rest d .ok → d.phase = .frame k →
    step s = .next (if s.xRx ≠ 0xD2 then callOver (.failed .linkProtocolViolation) rest s
      else if k < 7 + d.payload.length then driverAt { d with phase := .frame (k + 1), waiting := false } rest s
      else driverAt { d with phase := .eoc, waiting := false } rest s)) ∧
  (∀ (s : State) (rest : List Turn) (d : DriverRun), driverTakes s rest d .ok →
    (d.phase = .tsync → step s = .next (driverAt { d with phase := .load, waiting := false } rest s)) ∧
    (d.phase = .encode → step s = .next (driverAt { d with phase := .frame 0, waiting := false } rest s))) ∧
  ∀ (s : State) (rest : List Turn) (d : DriverRun) (st : Status), driverTakes s rest d st → st ≠ .ok →
    step s = .next (callOver (.failed (.request st)) rest s)

/-- R214 steps 3 and 4, R212, R213: the reply to the marker goes through the peer's latch; the reply to the padding
byte must be `cmd xor 0x80`; then a set no-response latch is cleared and ends the call without a payload, and
otherwise the driver polls for the reply frame. -/
def Obligations.DriverTakesTheAcknowledgement : Prop :=
  ∀ (s : State) (rest : List Turn) (d : DriverRun), driverTakes s rest d .ok →
    (d.phase = .eoc → step s = .next { s with
      script := rest
      host := { s.host with
        driver := some { d with phase := .pad, waiting := false }
        session := { s.host.session with peerDeviceId := some (s.host.session.peerDeviceId.getD s.xRx) }
        findings := s.host.findings ++ (match s.host.session.peerDeviceId with
          | none => []
          | some id => if s.xRx = id then [] else [⟨id, s.xRx⟩]) } }) ∧
    (d.phase = .pad → s.xRx ≠ d.cmd ^^^ 0x80 →
      step s = .next (callOver (.failed .linkProtocolViolation) rest s)) ∧
    (d.phase = .pad → s.xRx = d.cmd ^^^ 0x80 → s.host.session.transferNoResponse = true →
      step s = .next { s with
        script := rest
        host := { s.host with
          driver := none
          session := { s.host.session with transferNoResponse := false }
          results := s.host.results ++ [.noReply] } }) ∧
    (d.phase = .pad → s.xRx = d.cmd ^^^ 0x80 → s.host.session.transferNoResponse = false →
      step s = .next (driverAt { d with phase := .magic1, waiting := false } rest s))

/-- R215, R216: the driver polls until `0x99`, requires `0x66` next, then pulls four header bytes, `L'` payload bytes
and two checksum bytes, and aborts with `ChecksumMismatch` unless the window's checksum is the one received. -/
def Obligations.DriverPullsTheReply : Prop :=
  ∀ (s : State) (rest : List Turn) (d : DriverRun), driverTakes s rest d .ok →
    (d.phase = .magic1 → step s = .next (driverAt { d with
      phase := if s.xRx = 0x99 then .magic2 else .magic1
      waiting := false } rest s)) ∧
    (d.phase = .magic2 → step s = .next (if s.xRx = 0x66 then driverAt { d with phase := .header, waiting := false } rest s
      else callOver (.failed .linkProtocolViolation) rest s)) ∧
    (d.phase = .header → d.header.length < 3 →
      step s = .next (driverAt { d with header := d.header ++ [s.xRx], waiting := false } rest s)) ∧
    (d.phase = .header → d.header.length = 3 → step s = .next (driverAt { d with
      header := d.header ++ [s.xRx]
      phase := if s.xRx = 0 then .csumHi else .body
      waiting := false } rest s)) ∧
    (∀ len : Byte, d.phase = .body → d.header[3]? = some len → step s = .next (driverAt { d with
      body := d.body ++ [s.xRx]
      phase := if d.body.length + 1 < len.toNat then .body else .csumHi
      waiting := false } rest s)) ∧
    (d.phase = .csumHi → step s = .next (driverAt { d with csumHi := s.xRx, phase := .csumLo, waiting := false } rest s)) ∧
    (∀ h0 h1 h2 h3 : Byte, d.phase = .csumLo → d.header = [h0, h1, h2, h3] →
      step s = .next (if windowSum h0 h1 h2 h3 d.body % 65536 = d.csumHi.toNat * 256 + s.xRx.toNat then
        driverAt { d with phase := .confirmEoc, waiting := false } rest s
      else callOver (.failed .checksumMismatch) rest s))

/-- R217, R218: the reply to the second marker goes through the latch; after the confirmation byte, whose reply is not
checked, a reply command that differs from the request's aborts with `CommandMismatch`, and otherwise the result is
the payload without its first byte. -/
def Obligations.DriverConfirmsAndReturns : Prop :=
  ∀ (s : State) (rest : List Turn) (d : DriverRun), driverTakes s rest d .ok →
    (d.phase = .confirmEoc → step s = .next { s with
      script := rest
      host := { s.host with
        driver := some { d with phase := .confirm, waiting := false }
        session := { s.host.session with peerDeviceId := some (s.host.session.peerDeviceId.getD s.xRx) }
        findings := s.host.findings ++ (match s.host.session.peerDeviceId with
          | none => []
          | some id => if s.xRx = id then [] else [⟨id, s.xRx⟩]) } }) ∧
    ∀ h0 : Byte, d.phase = .confirm → d.header[0]? = some h0 →
      step s = .next (if h0 = d.cmd then callOver (.reply (d.body.drop 1)) rest s
        else callOver (.failed .commandMismatch) rest s)

/-- R211: the first observed byte establishes the id, which no later byte changes; each later byte that differs from
it is one finding. -/
def Obligations.DeviceLatchKeepsTheFirstId : Prop :=
  (∀ d : Byte, latchLearn none d = some d ∧ latchDrift none d = none) ∧
  (∀ id d : Byte, latchLearn (some id) d = some id ∧
    latchDrift (some id) d = if d = id then none else some { learned := id, seen := d }) ∧
  ∀ (id : Byte) (ds : List Byte), ds.foldl latchLearn (latchLearn none id) = some id ∧
    (ds.filterMap (latchDrift (ds.foldl latchLearn (some id)))).length = (ds.filter (fun d => d ≠ id)).length

/-- R230, R232, R236: at an index where neither direction holds the magic the scan moves by one; where one does it is
the sender, `A` on a tie; at the end of the trace the scan is over. R231: then the host writes the sender's window
`S[i .. i+n-1]`, `n = min(N - i, IBUF_SIZE)`, to `IBUF[0 .. n-1]` and to no other byte, and offers `PARSE 0, n`, which
waits while the port is busy; the write on a busy port is `HOST_HAZARD` (R76). -/
def Obligations.ScanSeeksTheMagic : Prop :=
  (∀ (s : State) (rest : List Turn) (r : ScanRun) (sender : Sender), scanTakes s rest r → r.phase = .load sender →
    (s.pend.valid = true → step s = .fault .hostHazard) ∧
    (s.pend.valid = false → ∃ t : State, step s = .next t ∧
      t = { scanAt { r with phase := .issue sender } rest s with ibuf := t.ibuf } ∧
      (∀ k, k < min (r.trace.length - r.i) s.params.ibufSize → t.ibuf.byte k = (match sender with
        | .a => r.trace.map Prod.fst
        | .b => r.trace.map Prod.snd)[r.i + k]?) ∧
      ∀ a, min (r.trace.length - r.i) s.params.ibufSize ≤ a → t.ibuf.byte a = s.ibuf.byte a)) ∧
  (∀ (s : State) (rest : List Turn) (r : ScanRun) (sender : Sender), scanTakes s rest r → r.phase = .issue sender →
    (s.pend.valid = true → step s = .next { s with script := rest }) ∧
    ∀ n : Half, s.pend.valid = false → n.toNat = min (r.trace.length - r.i) s.params.ibufSize →
      step s = exec (.parse 0 n) (scanAt { r with phase := .report sender } rest s)) ∧
  ∀ (s : State) (rest : List Turn) (r : ScanRun) (mA mB : Bool), scanTakes s rest r → r.phase = .seek →
    (mA = true ↔ r.i + 1 < r.trace.length ∧ (r.trace.map Prod.fst)[r.i]? = some 0x99 ∧
      (r.trace.map Prod.fst)[r.i + 1]? = some 0x66) →
    (mB = true ↔ r.i + 1 < r.trace.length ∧ (r.trace.map Prod.snd)[r.i]? = some 0x99 ∧
      (r.trace.map Prod.snd)[r.i + 1]? = some 0x66) →
      step s = .next (if r.i < r.trace.length then
        (if mA = false ∧ mB = false then scanAt { r with i := r.i + 1 } rest s
         else scanAt { r with phase := .load (if mA then .a else .b) } rest s)
      else scanOver r rest s)

/-- R233 to R235: on `INCOMPLETE` the scan reports it and stops; otherwise it reports the frame and its findings in
the order of R233, learns the sender's device byte, and moves past the whole frame. Here the sender is `A`, whose
receiver is `B`, or the other way round. -/
def Obligations.ScanReportsTheFrame : Prop :=
  ∀ (s : State) (rest : List Turn) (r : ScanRun) (sender : Sender) (st : Status) (got : Byte), scanTakes s rest r →
    r.phase = .report sender → s.response = some st →
    (st = .incomplete → step s = .next (scanOver { r with report := r.report ++ [.incomplete r.i sender] } rest s)) ∧
    (st = .ok →
      (match sender with
        | .a => r.trace.map Prod.snd
        | .b => r.trace.map Prod.fst)[r.i + 9 + s.parse.len.toNat]? = some got →
      step s = .next (scanAt { r with
        i := r.i + s.parse.consumed.toNat
        phase := .seek
        learnedA := if sender = .a then some (r.learnedA.getD s.parse.dev) else r.learnedA
        learnedB := if sender = .b then some (r.learnedB.getD s.parse.dev) else r.learnedB
        report := r.report ++ [.frame s.parse.cmd sender r.i]
          ++ (if s.parse.find.getLsbD 1 then [.reservedFieldAnomaly] else [])
          ++ (if s.parse.find.getLsbD 0 then [.checksumMismatch s.parse.csumCalc s.parse.csumRx] else [])
          ++ (match (if sender = .a then r.learnedA else r.learnedB) with
              | none => []
              | some id => if s.parse.dev = id then [] else [.deviceIdentityDrift id s.parse.dev])
          ++ (if s.parse.ack = 0x00 then [] else [.sendAckNonZero s.parse.ack])
          ++ (if got = s.parse.cmd ^^^ 0x80 then [] else [.receiveAckMismatch (s.parse.cmd ^^^ 0x80) got]) } rest s))

/-- R231: parsing the window `S[i .. i+n-1]`, `n = min(N - i, IBUF_SIZE)`, at offset 0 decides as parsing the whole
trace at `i` does, with the same registers but for the payload's place. -/
def Obligations.ScanWindowDecidesLikeTheTrace : Prop :=
  ∀ (bytes : List Byte) (i size whole : Nat), 265 ≤ size → i < bytes.length → bytes.length ≤ whole →
    parseAt size (Mem.setBytes [] 0 ((bytes.drop i).take size)) 0 (min (bytes.length - i) size) =
      match parseAt whole (Mem.setBytes [] 0 bytes) i bytes.length with
      | .frame regs => .frame { regs with pbase := 6 }
      | other => other

/-! ## Seconds, and the end of a run -/

/-- R85, R86: the host's `advance_time(seconds)`, `seconds = num / (den + 1)`, waits while the port is busy, and on a
ready port is one ADVANCE of `floor(seconds × TS_RES)` ticks. Where that number does not fit the 32-bit operand it is an
ADVANCE of some `dt` all the same; that this `dt` is any value is the model's choice (log entry 24), as is the rational
form of the seconds (log entry 21). -/
def Obligations.HostAdvancesBySeconds : Prop :=
  ∀ (s : State) (rest : List Turn) (num den : Nat) (ops : List HostOp), hostDoes s rest (.advanceTime num den) ops →
    (s.pend.valid = true → step s = .next { s with script := rest }) ∧
    (∀ dt : Word, s.pend.valid = false → dt.toNat = num * s.params.tsRes / (den + 1) →
      step s = exec (.advance dt) (hostDone ops rest s)) ∧
    (s.pend.valid = false → 2 ^ 32 ≤ num * s.params.tsRes / (den + 1) →
      ∃ dt : Word, step s = exec (.advance dt) { hostDone ops rest s with freeDraws := s.freeDraws + 1 })

/-- R298: a run has ended exactly when nothing is outstanding, no layer of the host is at work and the host's program
holds no step that issues a request; it stays ended and gives no response any more. A pending XFER with a reply in the
queue, or with the peer about to push one or to drop the connection, or with a timeout that the clock can reach, is no
hang; a hang stays one, whatever the agents do, reset apart, and gives no response any more. What counts as a further
request is the model's reading (log entry 23), and that a run whose last request a reset took has ended, or hangs where a
layer of the host waits for it, is its choice (log entry 26). -/
def Obligations.RunEndsOrHangsForGood : Prop :=
  (∀ s : State, runStatus s = .ended ↔ s.pend.valid = false ∧ s.host.driver = none ∧ s.host.scan = none ∧
    ∀ op ∈ s.host.queue, (∀ q, op ≠ .request q) ∧ (∀ num den, op ≠ .advanceTime num den) ∧
      (∀ id p, op ≠ .command id p) ∧ ∀ trace, op ≠ .scan trace) ∧
  (∀ s t : State, runStatus s = .ended → s.script.head? ≠ some .reset → step s = .next t →
    runStatus t = .ended ∧ t.respHist = s.respHist) ∧
  (∀ s : State, s.lstate = .ready → s.pend.valid = true →
    ((∃ r ∈ s.rxq, r.code = 0x69) ∨ s.peer.head? = some .lost ∨
      (∃ r, s.peer.head? = some (.push r) ∧ r.code = 0x69) ∨
      ∃ limit, s.params.xferTimeout = some limit ∧ s.pend.t0.toNat + limit < 2 ^ 64) → runStatus s = .running) ∧
  ∀ s t : State, s.Inv → runStatus s = .hung → s.script.head? ≠ some .reset → step s = .next t →
    runStatus t = .hung ∧ t.respHist = s.respHist
end

