-- ==== Sys2Proof/Laws/Encoding.lean ====
section
/-! SUPPORT. The bit fields of a request word and the bytes of a record's timestamp, put together and taken apart. -/

namespace Sys2Proof

/-- Bit `i` of four bytes in little-endian order. -/
theorem getLsbD_wordOfLE (b0 b1 b2 b3 : Byte) (i : Nat) :
    (wordOfLE b0 b1 b2 b3).getLsbD i =
      if i < 8 then b0.getLsbD i else if i < 16 then b1.getLsbD (i - 8)
      else if i < 24 then b2.getLsbD (i - 16) else b3.getLsbD (i - 24) := by
  change @BitVec.getLsbD (8 + 8 + 8 + 8) (b3 ++ b2 ++ b1 ++ b0) i = _
  rw [BitVec.getLsbD_append, BitVec.getLsbD_append, BitVec.getLsbD_append]
  simp only [Nat.sub_sub]
  repeat' split
  all_goals first | rfl | omega

/-- The bytes of a little-endian word are the ones it was made of. -/
theorem byteOfWord_wordOfLE (b0 b1 b2 b3 : Byte) :
    byteOfWord (wordOfLE b0 b1 b2 b3) 0 = b0 ∧ byteOfWord (wordOfLE b0 b1 b2 b3) 1 = b1 ∧
    byteOfWord (wordOfLE b0 b1 b2 b3) 2 = b2 ∧ byteOfWord (wordOfLE b0 b1 b2 b3) 3 = b3 := by
  refine ⟨?_, ?_, ?_, ?_⟩ <;>
  · apply BitVec.eq_of_getLsbD_eq
    intro i hi
    simp only [byteOfWord, BitVec.getLsbD_extractLsb', getLsbD_wordOfLE, hi, decide_true, Bool.true_and]
    repeat' split
    all_goals first | omega | (congr 1; omega)

/-- A word is the little-endian word of its bytes. -/
theorem wordOfLE_byteOfWord (w : Word) :
    wordOfLE (byteOfWord w 0) (byteOfWord w 1) (byteOfWord w 2) (byteOfWord w 3) = w := by
  apply BitVec.eq_of_getLsbD_eq
  intro i hi
  simp only [getLsbD_wordOfLE, byteOfWord, BitVec.getLsbD_extractLsb']
  repeat' split
  all_goals
    rw [decide_eq_true (by omega), Bool.true_and]
    congr 1; omega

/-- Bit `i` of a request word, by field. -/
theorem getLsbD_requestWord (op a b z : Byte) (w : Word) (i : Nat) :
    (requestWord op a b z w).getLsbD i =
      if i < 32 then w.getLsbD i else if i < 40 then z.getLsbD (i - 32) else if i < 48 then b.getLsbD (i - 40)
      else if i < 56 then a.getLsbD (i - 48) else op.getLsbD (i - 56) := by
  change @BitVec.getLsbD (8 + 8 + 8 + 8 + 32) (op ++ a ++ b ++ z ++ w) i = _
  rw [BitVec.getLsbD_append, BitVec.getLsbD_append, BitVec.getLsbD_append, BitVec.getLsbD_append]
  simp only [Nat.sub_sub]
  repeat' split
  all_goals first | rfl | omega

/-- The fields of a request word are the ones it was made of. -/
theorem fields_requestWord (op a b z : Byte) (w : Word) :
    fieldOp (requestWord op a b z w) = op ∧ fieldA (requestWord op a b z w) = a ∧
    fieldB (requestWord op a b z w) = b ∧ fieldZ (requestWord op a b z w) = z ∧
    fieldW (requestWord op a b z w) = w := by
  refine ⟨?_, ?_, ?_, ?_, ?_⟩ <;>
  · apply BitVec.eq_of_getLsbD_eq
    intro i hi
    simp only [fieldOp, fieldA, fieldB, fieldZ, fieldW, BitVec.getLsbD_extractLsb', getLsbD_requestWord, hi,
      decide_true, Bool.true_and]
    repeat' split
    all_goals first | omega | (congr 1; omega)

/-- A request word is made of its fields. -/
theorem requestWord_fields (q : DWord) :
    requestWord (fieldOp q) (fieldA q) (fieldB q) (fieldZ q) (fieldW q) = q := by
  apply BitVec.eq_of_getLsbD_eq
  intro i hi
  simp only [getLsbD_requestWord, fieldOp, fieldA, fieldB, fieldZ, fieldW, BitVec.getLsbD_extractLsb']
  repeat' split
  all_goals
    rw [decide_eq_true (by omega), Bool.true_and]
    congr 1; omega

/-- The halves of `W` are the ones it was made of. -/
theorem halves_requestWord (op a b z : Byte) (h l : Half) :
    fieldWH (requestWord op a b z (h ++ l)) = h ∧ fieldWL (requestWord op a b z (h ++ l)) = l := by
  refine ⟨?_, ?_⟩ <;>
  · apply BitVec.eq_of_getLsbD_eq
    intro i hi
    simp only [fieldWH, fieldWL, BitVec.getLsbD_extractLsb', getLsbD_requestWord, hi, decide_true, Bool.true_and]
    rw [if_pos (by omega)]
    rw [@BitVec.getLsbD_append 16 16]
    split
    all_goals first | omega | (congr 1; omega)

/-- `W` is its two halves. -/
theorem fieldW_halves (q : DWord) : fieldWH q ++ fieldWL q = fieldW q := by
  apply BitVec.eq_of_getLsbD_eq
  intro i hi
  simp only [fieldWH, fieldWL, fieldW, BitVec.getLsbD_extractLsb']
  rw [@BitVec.getLsbD_append 16 16]
  simp only [BitVec.getLsbD_extractLsb']
  split
  all_goals
    have h16 : i - 16 < 16 := by omega
    simp_all

/-- A record is its four leading bytes and its timestamp field. -/
theorem mkRecord_ts (r : Record) : mkRecord r.code r.fieldB r.fieldC r.fieldD r.ts = r := by
  obtain ⟨h0, h1, h2, h3⟩ := byteOfWord_wordOfLE r.t0 r.t1 r.t2 r.t3
  simp only [mkRecord, Record.ts, h0, h1, h2, h3]

/-- The timestamp field of a record is the one it was made with. -/
theorem ts_mkRecord (code b c d : Byte) (ts : Word) : (mkRecord code b c d ts).ts = ts := wordOfLE_byteOfWord ts

end Sys2Proof
end

