-- ==== Sys2Proof/Laws/Memory.lean ====
section
/-! SUPPORT. The laws of the buffers: a read after a write, the canonical form kept, and bulk reads and writes in
terms of single bytes. -/

namespace Sys2Proof.Machine

@[simp] theorem Mem.byte_nil (i : Nat) : Mem.byte [] i = none := rfl

@[simp] theorem Mem.bytes_zero (m : Mem) (i : Nat) : m.bytes i 0 = some [] := rfl

@[simp] theorem Mem.setBytes_nil (m : Mem) (i : Nat) : m.setBytes i [] = m := rfl

@[simp] theorem Mem.setBytes_cons (m : Mem) (i : Nat) (b : Byte) (bs : List Byte) :
    m.setBytes i (b :: bs) = (m.setByte i b).setBytes (i + 1) bs := rfl

/-- A read after a write of the same byte gives the value written. -/
@[simp] theorem Mem.byte_setByte_same (m : Mem) (i : Nat) (v : Byte) : (m.setByte i v).byte i = some v := by
  induction m with
  | nil => simp [Mem.setByte, Mem.byte]
  | cons c m ih =>
    obtain ⟨a, b⟩ := c
    simp only [Mem.setByte]
    split
    · simp [Mem.byte]
    · split
      · simp [Mem.byte]
      · next h1 h2 => simp [Mem.byte, Ne.symm h2, ih]

/-- A write leaves every other byte alone. -/
theorem Mem.byte_setByte_other (m : Mem) {i j : Nat} (v : Byte) (h : j ≠ i) :
    (m.setByte i v).byte j = m.byte j := by
  induction m with
  | nil => simp [Mem.setByte, Mem.byte, Ne.symm h]
  | cons c m ih =>
    obtain ⟨a, b⟩ := c
    simp only [Mem.setByte]
    split
    · simp [Mem.byte, Ne.symm h]
    · split
      · next h1 h2 => subst h2; simp [Mem.byte, Ne.symm h]
      · simp [Mem.byte, ih]

/-- Writing one byte, read back at any index. -/
theorem Mem.byte_setByte (m : Mem) (i j : Nat) (v : Byte) :
    (m.setByte i v).byte j = if j = i then some v else m.byte j := by
  split
  · next h => subst h; simp
  · next h => exact Mem.byte_setByte_other m v h

/-- Writing a sequence, read back at any index. -/
theorem Mem.byte_setBytes (m : Mem) (i : Nat) (bs : List Byte) (j : Nat) :
    (m.setBytes i bs).byte j = if i ≤ j ∧ j < i + bs.length then bs[j - i]? else m.byte j := by
  induction bs generalizing m i with
  | nil =>
    have : ¬ (i ≤ j ∧ j < i + ([] : List Byte).length) := by simp
    rw [if_neg this]; rfl
  | cons b bs ih =>
    rw [Mem.setBytes_cons, ih, Mem.byte_setByte]
    rcases Nat.lt_trichotomy j i with h | h | h
    · simp [show ¬ (i + 1 ≤ j) by omega, show ¬ (i ≤ j) by omega, show j ≠ i by omega]
    · subst h; simp
    · obtain ⟨k, rfl⟩ : ∃ k, j = i + 1 + k := ⟨j - (i + 1), by omega⟩
      have e : i + 1 + k - i = k + 1 := by omega
      have e' : i + 1 + k - (i + 1) = k := by omega
      rw [e, e', List.getElem?_cons_succ]
      have hl : (b :: bs).length = bs.length + 1 := rfl
      by_cases hk : k < bs.length
      · rw [if_pos ⟨by omega, by omega⟩, if_pos ⟨by omega, by omega⟩]
      · rw [if_neg (by omega), if_neg (by omega), if_neg (by omega)]

/-- An index that a written cell has after a write was written before or is the index of the write. -/
theorem Mem.mem_setByte {m : Mem} {i : Nat} {v : Byte} {c : Host.Cell} (h : c ∈ m.setByte i v) :
    c ∈ m ∨ c = (i, v) := by
  induction m with
  | nil => simpa [Mem.setByte] using h
  | cons d m ih =>
    obtain ⟨a, b⟩ := d
    simp only [Mem.setByte] at h
    split at h
    · simp only [List.mem_cons] at h ⊢; tauto
    · split at h
      · simp only [List.mem_cons] at h ⊢; tauto
      · simp only [List.mem_cons] at h ⊢
        rcases h with h | h
        · tauto
        · rcases ih h with h | h <;> tauto

/-- Writing one byte keeps the canonical form. -/
theorem Mem.setByte_wf {m : Mem} (h : m.wf) (i : Nat) (v : Byte) : (m.setByte i v).wf := by
  induction m with
  | nil => simp [Mem.setByte, Mem.wf]
  | cons d m ih =>
    obtain ⟨a, b⟩ := d
    obtain ⟨h1, h2⟩ := List.pairwise_cons.1 h
    simp only [Mem.setByte]
    split
    · next hi =>
      refine List.pairwise_cons.2 ⟨fun c hc => ?_, h⟩
      rcases List.mem_cons.1 hc with rfl | hc
      · exact hi
      · exact Nat.lt_trans hi (h1 c hc)
    · split
      · next hi => subst hi; exact List.pairwise_cons.2 ⟨h1, h2⟩
      · next hi hi' =>
        refine List.pairwise_cons.2 ⟨fun c hc => ?_, ih h2⟩
        rcases Mem.mem_setByte hc with hc | rfl
        · exact h1 c hc
        · simp only; omega

/-- Writing a sequence keeps the canonical form. -/
theorem Mem.setBytes_wf {m : Mem} (h : m.wf) (i : Nat) (bs : List Byte) : (m.setBytes i bs).wf := by
  induction bs generalizing m i with
  | nil => exact h
  | cons b bs ih => exact ih (Mem.setByte_wf h i b) (i + 1)

/-- Writing inside a buffer keeps it inside. -/
theorem Mem.setBytes_within {m : Mem} {size : Nat} (h : m.within size) (i : Nat) (bs : List Byte)
    (hi : i + bs.length ≤ size) : (m.setBytes i bs).within size := by
  induction bs generalizing m i with
  | nil => exact h
  | cons b bs ih =>
    refine ih (fun c hc => ?_) (i + 1) (by simp only [List.length_cons] at hi; omega)
    rcases Mem.mem_setByte hc with hc | rfl
    · exact h c hc
    · simp only [List.length_cons] at hi; simp only; omega

/-- One more byte of a bulk read. -/
theorem Mem.bytes_succ (m : Mem) (i n : Nat) :
    m.bytes i (n + 1) = (m.byte i).bind (fun b => (m.bytes (i + 1) n).map (b :: ·)) := by
  simp only [Mem.bytes]
  cases m.byte i <;> cases m.bytes (i + 1) n <;> rfl

/-- A bulk read has the length asked for. -/
theorem Mem.bytes_length {m : Mem} {i n : Nat} {bs : List Byte} (h : m.bytes i n = some bs) : bs.length = n := by
  induction n generalizing i bs with
  | zero => cases h; rfl
  | succ n ih =>
    rw [Mem.bytes_succ] at h
    simp only [Option.bind_eq_some_iff, Option.map_eq_some_iff] at h
    obtain ⟨b, -, bs', h', rfl⟩ := h
    simp [ih h']

/-- What a bulk read answers: it succeeds with `bs` exactly where each byte is written and is the one of `bs`. -/
theorem Mem.bytes_eq_some_iff {m : Mem} {i n : Nat} {bs : List Byte} :
    m.bytes i n = some bs ↔ bs.length = n ∧ ∀ k, k < n → m.byte (i + k) = bs[k]? := by
  induction n generalizing i bs with
  | zero => cases bs <;> simp
  | succ n ih =>
    rw [Mem.bytes_succ]
    simp only [Option.bind_eq_some_iff, Option.map_eq_some_iff, ih]
    constructor
    · rintro ⟨b, hb, bs', ⟨hl, hk⟩, rfl⟩
      refine ⟨by simp [hl], fun k hlt => ?_⟩
      rcases k with _ | k
      · simpa using hb
      · have := hk k (by omega)
        rw [List.getElem?_cons_succ, ← this]; congr 1; omega
    · rintro ⟨hl, hk⟩
      rcases bs with _ | ⟨b, bs⟩
      · simp at hl
      · refine ⟨b, by simpa using hk 0 (by omega), bs, ⟨by simpa using hl, fun k hlt => ?_⟩, rfl⟩
        have := hk (k + 1) (by omega)
        rw [List.getElem?_cons_succ] at this
        rw [← this]; congr 1; omega

/-- A bulk read fails exactly where one of its bytes is unwritten. -/
theorem Mem.bytes_eq_none_iff {m : Mem} {i n : Nat} :
    m.bytes i n = none ↔ ∃ k, k < n ∧ m.byte (i + k) = none := by
  induction n generalizing i with
  | zero => simp
  | succ n ih =>
    rw [Mem.bytes_succ]
    constructor
    · intro h
      cases hb : m.byte i with
      | none => exact ⟨0, by omega, by simpa using hb⟩
      | some b =>
        simp only [hb, Option.bind_some, Option.map_eq_none_iff] at h
        obtain ⟨k, hk, e⟩ := ih.1 h
        exact ⟨k + 1, by omega, by rw [← e]; congr 1; omega⟩
    · rintro ⟨k, hk, e⟩
      rcases k with _ | k
      · simp only [Nat.add_zero] at e; simp [e]
      · have : m.bytes (i + 1) n = none := ih.2 ⟨k, by omega, by rw [← e]; congr 1; omega⟩
        simp [this]

/-- A bulk read of two adjoining stretches is the two reads, joined. -/
theorem Mem.bytes_add {m : Mem} {i n k : Nat} {bs cs : List Byte} (hb : m.bytes i n = some bs)
    (hc : m.bytes (i + n) k = some cs) : m.bytes i (n + k) = some (bs ++ cs) := by
  rw [Mem.bytes_eq_some_iff] at *
  obtain ⟨hl, hb⟩ := hb
  obtain ⟨hl', hc⟩ := hc
  refine ⟨by simp [hl, hl'], fun j hj => ?_⟩
  by_cases hjn : j < n
  · rw [hb j hjn, List.getElem?_append_left (by omega)]
  · rw [List.getElem?_append_right (by omega), ← hc (j - bs.length) (by omega)]
    congr 1; omega

/-- What was written is what a bulk read of it gives. -/
theorem Mem.bytes_setBytes (m : Mem) (i : Nat) (bs : List Byte) : (m.setBytes i bs).bytes i bs.length = some bs := by
  rw [Mem.bytes_eq_some_iff]
  refine ⟨rfl, fun k hk => ?_⟩
  rw [Mem.byte_setBytes, if_pos ⟨by omega, by omega⟩]
  congr 1; omega

end Sys2Proof.Machine
end

