-- ==== Sys2Proof/Laws/State.lean ====
section
/-! SUPPORT. One lemma for each field under each named update of the state, so that no later proof unfolds a record
update. -/

namespace Sys2Proof.Machine

section acceptFields

variable (s : State)

@[simp] theorem accept_params : (accept s).params = s.params := rfl
@[simp] theorem accept_lstate : (accept s).lstate = s.lstate := rfl
@[simp] theorem accept_timeOffset : (accept s).timeOffset = s.timeOffset := rfl
@[simp] theorem accept_pend : (accept s).pend = s.pend := rfl
@[simp] theorem accept_rxq : (accept s).rxq = s.rxq := rfl
@[simp] theorem accept_lastStatus : (accept s).lastStatus = s.lastStatus := rfl
@[simp] theorem accept_xRx : (accept s).xRx = s.xRx := rfl
@[simp] theorem accept_xTs : (accept s).xTs = s.xTs := rfl
@[simp] theorem accept_eLen : (accept s).eLen = s.eLen := rfl
@[simp] theorem accept_eCsum : (accept s).eCsum = s.eCsum := rfl
@[simp] theorem accept_parse : (accept s).parse = s.parse := rfl
@[simp] theorem accept_pbuf : (accept s).pbuf = s.pbuf := rfl
@[simp] theorem accept_obuf : (accept s).obuf = s.obuf := rfl
@[simp] theorem accept_ibuf : (accept s).ibuf = s.ibuf := rfl
@[simp] theorem accept_response : (accept s).response = none := rfl
@[simp] theorem accept_txHist : (accept s).txHist = s.txHist := rfl
@[simp] theorem accept_logHist : (accept s).logHist = s.logHist := rfl
@[simp] theorem accept_respHist : (accept s).respHist = s.respHist := rfl
@[simp] theorem accept_clock : (accept s).clock = s.clock := rfl
@[simp] theorem accept_freeDraws : (accept s).freeDraws = s.freeDraws := rfl
@[simp] theorem accept_peer : (accept s).peer = s.peer := rfl
@[simp] theorem accept_host : (accept s).host = s.host := rfl
@[simp] theorem accept_script : (accept s).script = s.script := rfl

end acceptFields

section respondFields

variable (st : Status) (s : State)

@[simp] theorem respond_params : (respond st s).params = s.params := rfl
@[simp] theorem respond_lstate : (respond st s).lstate = s.lstate := rfl
@[simp] theorem respond_timeOffset : (respond st s).timeOffset = s.timeOffset := rfl
@[simp] theorem respond_pend : (respond st s).pend = s.pend := rfl
@[simp] theorem respond_rxq : (respond st s).rxq = s.rxq := rfl
@[simp] theorem respond_lastStatus : (respond st s).lastStatus = st.code := rfl
@[simp] theorem respond_xRx : (respond st s).xRx = s.xRx := rfl
@[simp] theorem respond_xTs : (respond st s).xTs = s.xTs := rfl
@[simp] theorem respond_eLen : (respond st s).eLen = s.eLen := rfl
@[simp] theorem respond_eCsum : (respond st s).eCsum = s.eCsum := rfl
@[simp] theorem respond_parse : (respond st s).parse = s.parse := rfl
@[simp] theorem respond_pbuf : (respond st s).pbuf = s.pbuf := rfl
@[simp] theorem respond_obuf : (respond st s).obuf = s.obuf := rfl
@[simp] theorem respond_ibuf : (respond st s).ibuf = s.ibuf := rfl
@[simp] theorem respond_response : (respond st s).response = some st := rfl
@[simp] theorem respond_txHist : (respond st s).txHist = s.txHist := rfl
@[simp] theorem respond_logHist : (respond st s).logHist = s.logHist := rfl
@[simp] theorem respond_respHist : (respond st s).respHist = s.respHist ++ [st] := rfl
@[simp] theorem respond_clock : (respond st s).clock = s.clock := rfl
@[simp] theorem respond_freeDraws : (respond st s).freeDraws = s.freeDraws := rfl
@[simp] theorem respond_peer : (respond st s).peer = s.peer := rfl
@[simp] theorem respond_host : (respond st s).host = s.host := rfl
@[simp] theorem respond_script : (respond st s).script = s.script := rfl

end respondFields

section sendFields

variable (r : Record) (s : State)

@[simp] theorem send_params : (send r s).params = s.params := rfl
@[simp] theorem send_lstate : (send r s).lstate = s.lstate := rfl
@[simp] theorem send_timeOffset : (send r s).timeOffset = s.timeOffset := rfl
@[simp] theorem send_pend : (send r s).pend = s.pend := rfl
@[simp] theorem send_rxq : (send r s).rxq = s.rxq := rfl
@[simp] theorem send_lastStatus : (send r s).lastStatus = s.lastStatus := rfl
@[simp] theorem send_xRx : (send r s).xRx = s.xRx := rfl
@[simp] theorem send_xTs : (send r s).xTs = s.xTs := rfl
@[simp] theorem send_eLen : (send r s).eLen = s.eLen := rfl
@[simp] theorem send_eCsum : (send r s).eCsum = s.eCsum := rfl
@[simp] theorem send_parse : (send r s).parse = s.parse := rfl
@[simp] theorem send_pbuf : (send r s).pbuf = s.pbuf := rfl
@[simp] theorem send_obuf : (send r s).obuf = s.obuf := rfl
@[simp] theorem send_ibuf : (send r s).ibuf = s.ibuf := rfl
@[simp] theorem send_response : (send r s).response = s.response := rfl
@[simp] theorem send_txHist : (send r s).txHist = s.txHist ++ [r] := rfl
@[simp] theorem send_logHist : (send r s).logHist = s.logHist := rfl
@[simp] theorem send_respHist : (send r s).respHist = s.respHist := rfl
@[simp] theorem send_clock : (send r s).clock = s.clock := rfl
@[simp] theorem send_freeDraws : (send r s).freeDraws = s.freeDraws := rfl
@[simp] theorem send_peer : (send r s).peer = s.peer := rfl
@[simp] theorem send_host : (send r s).host = s.host := rfl
@[simp] theorem send_script : (send r s).script = s.script := rfl

end sendFields

section logEventFields

variable (k : LogKind) (v : Word) (s : State)

@[simp] theorem logEvent_params : (logEvent k v s).params = s.params := rfl
@[simp] theorem logEvent_lstate : (logEvent k v s).lstate = s.lstate := rfl
@[simp] theorem logEvent_timeOffset : (logEvent k v s).timeOffset = s.timeOffset := rfl
@[simp] theorem logEvent_pend : (logEvent k v s).pend = s.pend := rfl
@[simp] theorem logEvent_rxq : (logEvent k v s).rxq = s.rxq := rfl
@[simp] theorem logEvent_lastStatus : (logEvent k v s).lastStatus = s.lastStatus := rfl
@[simp] theorem logEvent_xRx : (logEvent k v s).xRx = s.xRx := rfl
@[simp] theorem logEvent_xTs : (logEvent k v s).xTs = s.xTs := rfl
@[simp] theorem logEvent_eLen : (logEvent k v s).eLen = s.eLen := rfl
@[simp] theorem logEvent_eCsum : (logEvent k v s).eCsum = s.eCsum := rfl
@[simp] theorem logEvent_parse : (logEvent k v s).parse = s.parse := rfl
@[simp] theorem logEvent_pbuf : (logEvent k v s).pbuf = s.pbuf := rfl
@[simp] theorem logEvent_obuf : (logEvent k v s).obuf = s.obuf := rfl
@[simp] theorem logEvent_ibuf : (logEvent k v s).ibuf = s.ibuf := rfl
@[simp] theorem logEvent_response : (logEvent k v s).response = s.response := rfl
@[simp] theorem logEvent_txHist : (logEvent k v s).txHist = s.txHist := rfl
@[simp] theorem logEvent_logHist : (logEvent k v s).logHist = s.logHist ++ [⟨k, v⟩] := rfl
@[simp] theorem logEvent_respHist : (logEvent k v s).respHist = s.respHist := rfl
@[simp] theorem logEvent_clock : (logEvent k v s).clock = s.clock := rfl
@[simp] theorem logEvent_freeDraws : (logEvent k v s).freeDraws = s.freeDraws := rfl
@[simp] theorem logEvent_peer : (logEvent k v s).peer = s.peer := rfl
@[simp] theorem logEvent_host : (logEvent k v s).host = s.host := rfl
@[simp] theorem logEvent_script : (logEvent k v s).script = s.script := rfl

end logEventFields

section rxPopFields

variable (s : State)

@[simp] theorem rxPop_params : (rxPop s).params = s.params := rfl
@[simp] theorem rxPop_lstate : (rxPop s).lstate = s.lstate := rfl
@[simp] theorem rxPop_timeOffset : (rxPop s).timeOffset = s.timeOffset := rfl
@[simp] theorem rxPop_pend : (rxPop s).pend = s.pend := rfl
@[simp] theorem rxPop_rxq : (rxPop s).rxq = s.rxq.tail := rfl
@[simp] theorem rxPop_lastStatus : (rxPop s).lastStatus = s.lastStatus := rfl
@[simp] theorem rxPop_xRx : (rxPop s).xRx = s.xRx := rfl
@[simp] theorem rxPop_xTs : (rxPop s).xTs = s.xTs := rfl
@[simp] theorem rxPop_eLen : (rxPop s).eLen = s.eLen := rfl
@[simp] theorem rxPop_eCsum : (rxPop s).eCsum = s.eCsum := rfl
@[simp] theorem rxPop_parse : (rxPop s).parse = s.parse := rfl
@[simp] theorem rxPop_pbuf : (rxPop s).pbuf = s.pbuf := rfl
@[simp] theorem rxPop_obuf : (rxPop s).obuf = s.obuf := rfl
@[simp] theorem rxPop_ibuf : (rxPop s).ibuf = s.ibuf := rfl
@[simp] theorem rxPop_response : (rxPop s).response = s.response := rfl
@[simp] theorem rxPop_txHist : (rxPop s).txHist = s.txHist := rfl
@[simp] theorem rxPop_logHist : (rxPop s).logHist = s.logHist := rfl
@[simp] theorem rxPop_respHist : (rxPop s).respHist = s.respHist := rfl
@[simp] theorem rxPop_clock : (rxPop s).clock = s.clock := rfl
@[simp] theorem rxPop_freeDraws : (rxPop s).freeDraws = s.freeDraws := rfl
@[simp] theorem rxPop_peer : (rxPop s).peer = s.peer := rfl
@[simp] theorem rxPop_host : (rxPop s).host = s.host := rfl
@[simp] theorem rxPop_script : (rxPop s).script = s.script := rfl

end rxPopFields

section logCodeFields

variable (k : LogKind) (c : Byte) (s : State)

@[simp] theorem logCode_params : (logCode k c s).params = s.params := rfl
@[simp] theorem logCode_lstate : (logCode k c s).lstate = s.lstate := rfl
@[simp] theorem logCode_timeOffset : (logCode k c s).timeOffset = s.timeOffset := rfl
@[simp] theorem logCode_pend : (logCode k c s).pend = s.pend := rfl
@[simp] theorem logCode_rxq : (logCode k c s).rxq = s.rxq := rfl
@[simp] theorem logCode_lastStatus : (logCode k c s).lastStatus = s.lastStatus := rfl
@[simp] theorem logCode_xRx : (logCode k c s).xRx = s.xRx := rfl
@[simp] theorem logCode_xTs : (logCode k c s).xTs = s.xTs := rfl
@[simp] theorem logCode_eLen : (logCode k c s).eLen = s.eLen := rfl
@[simp] theorem logCode_eCsum : (logCode k c s).eCsum = s.eCsum := rfl
@[simp] theorem logCode_parse : (logCode k c s).parse = s.parse := rfl
@[simp] theorem logCode_pbuf : (logCode k c s).pbuf = s.pbuf := rfl
@[simp] theorem logCode_obuf : (logCode k c s).obuf = s.obuf := rfl
@[simp] theorem logCode_ibuf : (logCode k c s).ibuf = s.ibuf := rfl
@[simp] theorem logCode_response : (logCode k c s).response = s.response := rfl
@[simp] theorem logCode_txHist : (logCode k c s).txHist = s.txHist := rfl
@[simp] theorem logCode_logHist : (logCode k c s).logHist = s.logHist ++ [⟨k, c.setWidth 32⟩] := rfl
@[simp] theorem logCode_respHist : (logCode k c s).respHist = s.respHist := rfl
@[simp] theorem logCode_clock : (logCode k c s).clock = s.clock := rfl
@[simp] theorem logCode_freeDraws : (logCode k c s).freeDraws = s.freeDraws := rfl
@[simp] theorem logCode_peer : (logCode k c s).peer = s.peer := rfl
@[simp] theorem logCode_host : (logCode k c s).host = s.host := rfl
@[simp] theorem logCode_script : (logCode k c s).script = s.script := rfl

end logCodeFields

section completeXferFields

variable (b : Byte) (s : State)

@[simp] theorem completeXfer_params : (completeXfer b s).params = s.params := rfl
@[simp] theorem completeXfer_lstate : (completeXfer b s).lstate = s.lstate := rfl
@[simp] theorem completeXfer_timeOffset : (completeXfer b s).timeOffset = s.timeOffset := rfl
@[simp] theorem completeXfer_pend : (completeXfer b s).pend = { s.pend with valid := false } := rfl
@[simp] theorem completeXfer_rxq : (completeXfer b s).rxq = s.rxq := rfl
@[simp] theorem completeXfer_lastStatus : (completeXfer b s).lastStatus = 0x00 := rfl
@[simp] theorem completeXfer_xRx : (completeXfer b s).xRx = b := rfl
@[simp] theorem completeXfer_xTs : (completeXfer b s).xTs = s.xTs := rfl
@[simp] theorem completeXfer_eLen : (completeXfer b s).eLen = s.eLen := rfl
@[simp] theorem completeXfer_eCsum : (completeXfer b s).eCsum = s.eCsum := rfl
@[simp] theorem completeXfer_parse : (completeXfer b s).parse = s.parse := rfl
@[simp] theorem completeXfer_pbuf : (completeXfer b s).pbuf = s.pbuf := rfl
@[simp] theorem completeXfer_obuf : (completeXfer b s).obuf = s.obuf := rfl
@[simp] theorem completeXfer_ibuf : (completeXfer b s).ibuf = s.ibuf := rfl
@[simp] theorem completeXfer_response : (completeXfer b s).response = some .ok := rfl
@[simp] theorem completeXfer_txHist : (completeXfer b s).txHist = s.txHist := rfl
@[simp] theorem completeXfer_logHist : (completeXfer b s).logHist = s.logHist := rfl
@[simp] theorem completeXfer_respHist : (completeXfer b s).respHist = s.respHist ++ [.ok] := rfl
@[simp] theorem completeXfer_clock : (completeXfer b s).clock = s.clock := rfl
@[simp] theorem completeXfer_freeDraws : (completeXfer b s).freeDraws = s.freeDraws := rfl
@[simp] theorem completeXfer_peer : (completeXfer b s).peer = s.peer := rfl
@[simp] theorem completeXfer_host : (completeXfer b s).host = s.host := rfl
@[simp] theorem completeXfer_script : (completeXfer b s).script = s.script := rfl

end completeXferFields

section setDriverFields

variable (d : DriverRun) (s : State)

@[simp] theorem setDriver_params : (setDriver d s).params = s.params := rfl
@[simp] theorem setDriver_lstate : (setDriver d s).lstate = s.lstate := rfl
@[simp] theorem setDriver_timeOffset : (setDriver d s).timeOffset = s.timeOffset := rfl
@[simp] theorem setDriver_pend : (setDriver d s).pend = s.pend := rfl
@[simp] theorem setDriver_rxq : (setDriver d s).rxq = s.rxq := rfl
@[simp] theorem setDriver_lastStatus : (setDriver d s).lastStatus = s.lastStatus := rfl
@[simp] theorem setDriver_xRx : (setDriver d s).xRx = s.xRx := rfl
@[simp] theorem setDriver_xTs : (setDriver d s).xTs = s.xTs := rfl
@[simp] theorem setDriver_eLen : (setDriver d s).eLen = s.eLen := rfl
@[simp] theorem setDriver_eCsum : (setDriver d s).eCsum = s.eCsum := rfl
@[simp] theorem setDriver_parse : (setDriver d s).parse = s.parse := rfl
@[simp] theorem setDriver_pbuf : (setDriver d s).pbuf = s.pbuf := rfl
@[simp] theorem setDriver_obuf : (setDriver d s).obuf = s.obuf := rfl
@[simp] theorem setDriver_ibuf : (setDriver d s).ibuf = s.ibuf := rfl
@[simp] theorem setDriver_response : (setDriver d s).response = s.response := rfl
@[simp] theorem setDriver_txHist : (setDriver d s).txHist = s.txHist := rfl
@[simp] theorem setDriver_logHist : (setDriver d s).logHist = s.logHist := rfl
@[simp] theorem setDriver_respHist : (setDriver d s).respHist = s.respHist := rfl
@[simp] theorem setDriver_clock : (setDriver d s).clock = s.clock := rfl
@[simp] theorem setDriver_freeDraws : (setDriver d s).freeDraws = s.freeDraws := rfl
@[simp] theorem setDriver_peer : (setDriver d s).peer = s.peer := rfl
@[simp] theorem setDriver_host : (setDriver d s).host = { s.host with driver := some d } := rfl
@[simp] theorem setDriver_script : (setDriver d s).script = s.script := rfl

end setDriverFields

section goPhaseFields

variable (p : DriverPhase) (d : DriverRun) (s : State)

@[simp] theorem goPhase_params : (goPhase p d s).params = s.params := rfl
@[simp] theorem goPhase_lstate : (goPhase p d s).lstate = s.lstate := rfl
@[simp] theorem goPhase_timeOffset : (goPhase p d s).timeOffset = s.timeOffset := rfl
@[simp] theorem goPhase_pend : (goPhase p d s).pend = s.pend := rfl
@[simp] theorem goPhase_rxq : (goPhase p d s).rxq = s.rxq := rfl
@[simp] theorem goPhase_lastStatus : (goPhase p d s).lastStatus = s.lastStatus := rfl
@[simp] theorem goPhase_xRx : (goPhase p d s).xRx = s.xRx := rfl
@[simp] theorem goPhase_xTs : (goPhase p d s).xTs = s.xTs := rfl
@[simp] theorem goPhase_eLen : (goPhase p d s).eLen = s.eLen := rfl
@[simp] theorem goPhase_eCsum : (goPhase p d s).eCsum = s.eCsum := rfl
@[simp] theorem goPhase_parse : (goPhase p d s).parse = s.parse := rfl
@[simp] theorem goPhase_pbuf : (goPhase p d s).pbuf = s.pbuf := rfl
@[simp] theorem goPhase_obuf : (goPhase p d s).obuf = s.obuf := rfl
@[simp] theorem goPhase_ibuf : (goPhase p d s).ibuf = s.ibuf := rfl
@[simp] theorem goPhase_response : (goPhase p d s).response = s.response := rfl
@[simp] theorem goPhase_txHist : (goPhase p d s).txHist = s.txHist := rfl
@[simp] theorem goPhase_logHist : (goPhase p d s).logHist = s.logHist := rfl
@[simp] theorem goPhase_respHist : (goPhase p d s).respHist = s.respHist := rfl
@[simp] theorem goPhase_clock : (goPhase p d s).clock = s.clock := rfl
@[simp] theorem goPhase_freeDraws : (goPhase p d s).freeDraws = s.freeDraws := rfl
@[simp] theorem goPhase_peer : (goPhase p d s).peer = s.peer := rfl
@[simp] theorem goPhase_host : (goPhase p d s).host = { s.host with driver := some { d with phase := p, waiting := false } } := rfl
@[simp] theorem goPhase_script : (goPhase p d s).script = s.script := rfl

end goPhaseFields

section endCallFields

variable (r : CallResult) (s : State)

@[simp] theorem endCall_params : (endCall r s).params = s.params := rfl
@[simp] theorem endCall_lstate : (endCall r s).lstate = s.lstate := rfl
@[simp] theorem endCall_timeOffset : (endCall r s).timeOffset = s.timeOffset := rfl
@[simp] theorem endCall_pend : (endCall r s).pend = s.pend := rfl
@[simp] theorem endCall_rxq : (endCall r s).rxq = s.rxq := rfl
@[simp] theorem endCall_lastStatus : (endCall r s).lastStatus = s.lastStatus := rfl
@[simp] theorem endCall_xRx : (endCall r s).xRx = s.xRx := rfl
@[simp] theorem endCall_xTs : (endCall r s).xTs = s.xTs := rfl
@[simp] theorem endCall_eLen : (endCall r s).eLen = s.eLen := rfl
@[simp] theorem endCall_eCsum : (endCall r s).eCsum = s.eCsum := rfl
@[simp] theorem endCall_parse : (endCall r s).parse = s.parse := rfl
@[simp] theorem endCall_pbuf : (endCall r s).pbuf = s.pbuf := rfl
@[simp] theorem endCall_obuf : (endCall r s).obuf = s.obuf := rfl
@[simp] theorem endCall_ibuf : (endCall r s).ibuf = s.ibuf := rfl
@[simp] theorem endCall_response : (endCall r s).response = s.response := rfl
@[simp] theorem endCall_txHist : (endCall r s).txHist = s.txHist := rfl
@[simp] theorem endCall_logHist : (endCall r s).logHist = s.logHist := rfl
@[simp] theorem endCall_respHist : (endCall r s).respHist = s.respHist := rfl
@[simp] theorem endCall_clock : (endCall r s).clock = s.clock := rfl
@[simp] theorem endCall_freeDraws : (endCall r s).freeDraws = s.freeDraws := rfl
@[simp] theorem endCall_peer : (endCall r s).peer = s.peer := rfl
@[simp] theorem endCall_host : (endCall r s).host = { s.host with driver := none, results := s.host.results ++ [r] } := rfl
@[simp] theorem endCall_script : (endCall r s).script = s.script := rfl

end endCallFields

section latchPeerFields

variable (b : Byte) (s : State)

@[simp] theorem latchPeer_params : (latchPeer b s).params = s.params := rfl
@[simp] theorem latchPeer_lstate : (latchPeer b s).lstate = s.lstate := rfl
@[simp] theorem latchPeer_timeOffset : (latchPeer b s).timeOffset = s.timeOffset := rfl
@[simp] theorem latchPeer_pend : (latchPeer b s).pend = s.pend := rfl
@[simp] theorem latchPeer_rxq : (latchPeer b s).rxq = s.rxq := rfl
@[simp] theorem latchPeer_lastStatus : (latchPeer b s).lastStatus = s.lastStatus := rfl
@[simp] theorem latchPeer_xRx : (latchPeer b s).xRx = s.xRx := rfl
@[simp] theorem latchPeer_xTs : (latchPeer b s).xTs = s.xTs := rfl
@[simp] theorem latchPeer_eLen : (latchPeer b s).eLen = s.eLen := rfl
@[simp] theorem latchPeer_eCsum : (latchPeer b s).eCsum = s.eCsum := rfl
@[simp] theorem latchPeer_parse : (latchPeer b s).parse = s.parse := rfl
@[simp] theorem latchPeer_pbuf : (latchPeer b s).pbuf = s.pbuf := rfl
@[simp] theorem latchPeer_obuf : (latchPeer b s).obuf = s.obuf := rfl
@[simp] theorem latchPeer_ibuf : (latchPeer b s).ibuf = s.ibuf := rfl
@[simp] theorem latchPeer_response : (latchPeer b s).response = s.response := rfl
@[simp] theorem latchPeer_txHist : (latchPeer b s).txHist = s.txHist := rfl
@[simp] theorem latchPeer_logHist : (latchPeer b s).logHist = s.logHist := rfl
@[simp] theorem latchPeer_respHist : (latchPeer b s).respHist = s.respHist := rfl
@[simp] theorem latchPeer_clock : (latchPeer b s).clock = s.clock := rfl
@[simp] theorem latchPeer_freeDraws : (latchPeer b s).freeDraws = s.freeDraws := rfl
@[simp] theorem latchPeer_peer : (latchPeer b s).peer = s.peer := rfl
@[simp] theorem latchPeer_script : (latchPeer b s).script = s.script := rfl

end latchPeerFields

section latchLocalFields

variable (s : State)

@[simp] theorem latchLocal_params : (latchLocal s).params = s.params := rfl
@[simp] theorem latchLocal_lstate : (latchLocal s).lstate = s.lstate := rfl
@[simp] theorem latchLocal_timeOffset : (latchLocal s).timeOffset = s.timeOffset := rfl
@[simp] theorem latchLocal_pend : (latchLocal s).pend = s.pend := rfl
@[simp] theorem latchLocal_rxq : (latchLocal s).rxq = s.rxq := rfl
@[simp] theorem latchLocal_lastStatus : (latchLocal s).lastStatus = s.lastStatus := rfl
@[simp] theorem latchLocal_xRx : (latchLocal s).xRx = s.xRx := rfl
@[simp] theorem latchLocal_xTs : (latchLocal s).xTs = s.xTs := rfl
@[simp] theorem latchLocal_eLen : (latchLocal s).eLen = s.eLen := rfl
@[simp] theorem latchLocal_eCsum : (latchLocal s).eCsum = s.eCsum := rfl
@[simp] theorem latchLocal_parse : (latchLocal s).parse = s.parse := rfl
@[simp] theorem latchLocal_pbuf : (latchLocal s).pbuf = s.pbuf := rfl
@[simp] theorem latchLocal_obuf : (latchLocal s).obuf = s.obuf := rfl
@[simp] theorem latchLocal_ibuf : (latchLocal s).ibuf = s.ibuf := rfl
@[simp] theorem latchLocal_response : (latchLocal s).response = s.response := rfl
@[simp] theorem latchLocal_txHist : (latchLocal s).txHist = s.txHist := rfl
@[simp] theorem latchLocal_logHist : (latchLocal s).logHist = s.logHist := rfl
@[simp] theorem latchLocal_respHist : (latchLocal s).respHist = s.respHist := rfl
@[simp] theorem latchLocal_clock : (latchLocal s).clock = s.clock := rfl
@[simp] theorem latchLocal_freeDraws : (latchLocal s).freeDraws = s.freeDraws := rfl
@[simp] theorem latchLocal_peer : (latchLocal s).peer = s.peer := rfl
@[simp] theorem latchLocal_script : (latchLocal s).script = s.script := rfl

end latchLocalFields

section setScanFields

variable (r : ScanRun) (s : State)

@[simp] theorem setScan_params : (setScan r s).params = s.params := rfl
@[simp] theorem setScan_lstate : (setScan r s).lstate = s.lstate := rfl
@[simp] theorem setScan_timeOffset : (setScan r s).timeOffset = s.timeOffset := rfl
@[simp] theorem setScan_pend : (setScan r s).pend = s.pend := rfl
@[simp] theorem setScan_rxq : (setScan r s).rxq = s.rxq := rfl
@[simp] theorem setScan_lastStatus : (setScan r s).lastStatus = s.lastStatus := rfl
@[simp] theorem setScan_xRx : (setScan r s).xRx = s.xRx := rfl
@[simp] theorem setScan_xTs : (setScan r s).xTs = s.xTs := rfl
@[simp] theorem setScan_eLen : (setScan r s).eLen = s.eLen := rfl
@[simp] theorem setScan_eCsum : (setScan r s).eCsum = s.eCsum := rfl
@[simp] theorem setScan_parse : (setScan r s).parse = s.parse := rfl
@[simp] theorem setScan_pbuf : (setScan r s).pbuf = s.pbuf := rfl
@[simp] theorem setScan_obuf : (setScan r s).obuf = s.obuf := rfl
@[simp] theorem setScan_ibuf : (setScan r s).ibuf = s.ibuf := rfl
@[simp] theorem setScan_response : (setScan r s).response = s.response := rfl
@[simp] theorem setScan_txHist : (setScan r s).txHist = s.txHist := rfl
@[simp] theorem setScan_logHist : (setScan r s).logHist = s.logHist := rfl
@[simp] theorem setScan_respHist : (setScan r s).respHist = s.respHist := rfl
@[simp] theorem setScan_clock : (setScan r s).clock = s.clock := rfl
@[simp] theorem setScan_freeDraws : (setScan r s).freeDraws = s.freeDraws := rfl
@[simp] theorem setScan_peer : (setScan r s).peer = s.peer := rfl
@[simp] theorem setScan_host : (setScan r s).host = { s.host with scan := some r } := rfl
@[simp] theorem setScan_script : (setScan r s).script = s.script := rfl

end setScanFields

section endScanFields

variable (r : ScanRun) (s : State)

@[simp] theorem endScan_params : (endScan r s).params = s.params := rfl
@[simp] theorem endScan_lstate : (endScan r s).lstate = s.lstate := rfl
@[simp] theorem endScan_timeOffset : (endScan r s).timeOffset = s.timeOffset := rfl
@[simp] theorem endScan_pend : (endScan r s).pend = s.pend := rfl
@[simp] theorem endScan_rxq : (endScan r s).rxq = s.rxq := rfl
@[simp] theorem endScan_lastStatus : (endScan r s).lastStatus = s.lastStatus := rfl
@[simp] theorem endScan_xRx : (endScan r s).xRx = s.xRx := rfl
@[simp] theorem endScan_xTs : (endScan r s).xTs = s.xTs := rfl
@[simp] theorem endScan_eLen : (endScan r s).eLen = s.eLen := rfl
@[simp] theorem endScan_eCsum : (endScan r s).eCsum = s.eCsum := rfl
@[simp] theorem endScan_parse : (endScan r s).parse = s.parse := rfl
@[simp] theorem endScan_pbuf : (endScan r s).pbuf = s.pbuf := rfl
@[simp] theorem endScan_obuf : (endScan r s).obuf = s.obuf := rfl
@[simp] theorem endScan_ibuf : (endScan r s).ibuf = s.ibuf := rfl
@[simp] theorem endScan_response : (endScan r s).response = s.response := rfl
@[simp] theorem endScan_txHist : (endScan r s).txHist = s.txHist := rfl
@[simp] theorem endScan_logHist : (endScan r s).logHist = s.logHist := rfl
@[simp] theorem endScan_respHist : (endScan r s).respHist = s.respHist := rfl
@[simp] theorem endScan_clock : (endScan r s).clock = s.clock := rfl
@[simp] theorem endScan_freeDraws : (endScan r s).freeDraws = s.freeDraws := rfl
@[simp] theorem endScan_peer : (endScan r s).peer = s.peer := rfl
@[simp] theorem endScan_host : (endScan r s).host = { s.host with scan := none, scans := s.host.scans ++ [r] } := rfl
@[simp] theorem endScan_script : (endScan r s).script = s.script := rfl

end endScanFields

section seeFields

variable (x : HostSeen) (s : State)

@[simp] theorem see_params : (see x s).params = s.params := rfl
@[simp] theorem see_lstate : (see x s).lstate = s.lstate := rfl
@[simp] theorem see_timeOffset : (see x s).timeOffset = s.timeOffset := rfl
@[simp] theorem see_pend : (see x s).pend = s.pend := rfl
@[simp] theorem see_rxq : (see x s).rxq = s.rxq := rfl
@[simp] theorem see_lastStatus : (see x s).lastStatus = s.lastStatus := rfl
@[simp] theorem see_xRx : (see x s).xRx = s.xRx := rfl
@[simp] theorem see_xTs : (see x s).xTs = s.xTs := rfl
@[simp] theorem see_eLen : (see x s).eLen = s.eLen := rfl
@[simp] theorem see_eCsum : (see x s).eCsum = s.eCsum := rfl
@[simp] theorem see_parse : (see x s).parse = s.parse := rfl
@[simp] theorem see_pbuf : (see x s).pbuf = s.pbuf := rfl
@[simp] theorem see_obuf : (see x s).obuf = s.obuf := rfl
@[simp] theorem see_ibuf : (see x s).ibuf = s.ibuf := rfl
@[simp] theorem see_response : (see x s).response = s.response := rfl
@[simp] theorem see_txHist : (see x s).txHist = s.txHist := rfl
@[simp] theorem see_logHist : (see x s).logHist = s.logHist := rfl
@[simp] theorem see_respHist : (see x s).respHist = s.respHist := rfl
@[simp] theorem see_clock : (see x s).clock = s.clock := rfl
@[simp] theorem see_freeDraws : (see x s).freeDraws = s.freeDraws := rfl
@[simp] theorem see_peer : (see x s).peer = s.peer := rfl
@[simp] theorem see_host : (see x s).host = { s.host with seen := s.host.seen ++ [x] } := rfl
@[simp] theorem see_script : (see x s).script = s.script := rfl

end seeFields

section popHostFields

variable (s : State)

@[simp] theorem popHost_params : (popHost s).params = s.params := rfl
@[simp] theorem popHost_lstate : (popHost s).lstate = s.lstate := rfl
@[simp] theorem popHost_timeOffset : (popHost s).timeOffset = s.timeOffset := rfl
@[simp] theorem popHost_pend : (popHost s).pend = s.pend := rfl
@[simp] theorem popHost_rxq : (popHost s).rxq = s.rxq := rfl
@[simp] theorem popHost_lastStatus : (popHost s).lastStatus = s.lastStatus := rfl
@[simp] theorem popHost_xRx : (popHost s).xRx = s.xRx := rfl
@[simp] theorem popHost_xTs : (popHost s).xTs = s.xTs := rfl
@[simp] theorem popHost_eLen : (popHost s).eLen = s.eLen := rfl
@[simp] theorem popHost_eCsum : (popHost s).eCsum = s.eCsum := rfl
@[simp] theorem popHost_parse : (popHost s).parse = s.parse := rfl
@[simp] theorem popHost_pbuf : (popHost s).pbuf = s.pbuf := rfl
@[simp] theorem popHost_obuf : (popHost s).obuf = s.obuf := rfl
@[simp] theorem popHost_ibuf : (popHost s).ibuf = s.ibuf := rfl
@[simp] theorem popHost_response : (popHost s).response = s.response := rfl
@[simp] theorem popHost_txHist : (popHost s).txHist = s.txHist := rfl
@[simp] theorem popHost_logHist : (popHost s).logHist = s.logHist := rfl
@[simp] theorem popHost_respHist : (popHost s).respHist = s.respHist := rfl
@[simp] theorem popHost_clock : (popHost s).clock = s.clock := rfl
@[simp] theorem popHost_freeDraws : (popHost s).freeDraws = s.freeDraws := rfl
@[simp] theorem popHost_peer : (popHost s).peer = s.peer := rfl
@[simp] theorem popHost_host : (popHost s).host = { s.host with queue := s.host.queue.tail } := rfl
@[simp] theorem popHost_script : (popHost s).script = s.script := rfl

end popHostFields

end Sys2Proof.Machine
end

