-- ==== Sys2Proof/Laws/Ops.lean ====
section
/-! SUPPORT. For each shared operation, one lemma that says all it can do: if it answers a next state, one of the
listed cases holds. -/

namespace Sys2Proof.Machine

/-! ## The request port -/

theorem onPort_busy {run : State → Result} {s : State} (h : s.pend.valid = true) : onPort run s = .next s := by
  simp [onPort, h]

theorem onPort_ready {run : State → Result} {s : State} (h : s.pend.valid = false) :
    onPort run s = run (accept s) := by
  simp [onPort, h]

/-- A request on the port is held, or runs on an accepted port. -/
theorem onPort_cases {run : State → Result} {s t : State} (h : onPort run s = .next t) :
    (s.pend.valid = true ∧ t = s) ∨ (s.pend.valid = false ∧ run (accept s) = .next t) := by
  cases hv : s.pend.valid with
  | true => rw [onPort_busy hv] at h; cases h; exact .inl ⟨rfl, rfl⟩
  | false => rw [onPort_ready hv] at h; exact .inr ⟨rfl, h⟩

theorem illegalRequest_ready {s : State} (h : s.pend.valid = false) :
    illegalRequest s = .next (respond .badRequest (accept s)) := onPort_ready h

/-! ## The frame parser -/

/-- What a matching parse has seen: the magic, the length byte, a frame inside the supplied bytes, its fields. -/
theorem parseAt_frame {size : Nat} {m : Mem} {o n : Nat} {regs : ParseRegs}
    (h : parseAt size m o n = .frame regs) :
    n ≤ size ∧ m.bytes o 2 = some magic ∧
      ∃ len, m.byte (o + 5) = some len ∧ o + 10 + len.toNat ≤ n ∧ parseFields m o len = some regs := by
  simp only [parseAt] at h
  split at h
  · cases h
  split at h
  · cases h
  split at h
  · cases h
  next two htwo =>
  split at h
  · cases h
  split at h
  · cases h
  simp only [parseBody] at h
  split at h
  · cases h
  next len hlen =>
  split at h
  · cases h
  split at h
  · cases h
  next regs' hregs =>
  cases h
  exact ⟨by omega, by simp_all, len, hlen, by omega, hregs⟩

/-- The fields of a frame, byte by byte. -/
theorem parseFields_some {m : Mem} {o : Nat} {len : Byte} {regs : ParseRegs}
    (h : parseFields m o len = some regs) :
    ∃ payload hi lo,
      m.byte (o + 2) = some regs.cmd ∧ m.byte (o + 3) = some regs.r1 ∧ m.byte (o + 4) = some regs.r2 ∧
      m.bytes (o + 6) len.toNat = some payload ∧ m.byte (o + 6 + len.toNat) = some hi ∧
      m.byte (o + 7 + len.toNat) = some lo ∧ m.byte (o + 8 + len.toNat) = some regs.dev ∧
      m.byte (o + 9 + len.toNat) = some regs.ack ∧ regs.len = len ∧
      regs.csumCalc = csum regs.cmd regs.r1 regs.r2 len payload ∧ regs.csumRx = csumOfBytes hi lo ∧
      regs.find = findings regs.r1 regs.r2 regs.csumCalc regs.csumRx ∧
      regs.consumed = BitVec.ofNat 16 (10 + len.toNat) ∧ regs.pbase = BitVec.ofNat 16 (o + 6) := by
  simp only [parseFields, Option.bind_eq_bind, Option.bind_eq_some_iff] at h
  obtain ⟨cmd, h1, r1, h2, r2, h3, payload, h4, hi, h5, lo, h6, dev, h7, ack, h8, h9⟩ := h
  cases h9
  exact ⟨payload, hi, lo, h1, h2, h3, h4, h5, h6, h7, h8, rfl, rfl, rfl, rfl, rfl, rfl⟩

/-! ## Host writes and reads -/

/-- A host write that goes through: nothing outstanding, the bytes inside the buffer, and one buffer changed. -/
theorem hostWrite_next {sp : Space} {i : Nat} {bs : List Byte} {s t : State} (h : hostWrite sp i bs s = .next t) :
    s.pend.valid = false ∧ i + bs.length ≤ spaceSize s.params sp ∧
      ((sp = .pbuf ∧ t = { s with pbuf := s.pbuf.setBytes i bs }) ∨
        (sp = .ibuf ∧ t = { s with ibuf := s.ibuf.setBytes i bs })) := by
  simp only [hostWrite] at h
  split at h
  · cases h
  next hv =>
  split at h
  · cases h
  refine ⟨by simpa using hv, by omega, ?_⟩
  cases sp <;> cases h
  · exact .inl ⟨rfl, rfl⟩
  · exact .inr ⟨rfl, rfl⟩

theorem afterHostRead_cases (s : State) (sp : Space) (i : Nat) :
    afterHostRead s sp i = s ∨ afterHostRead s sp i = { s with freeDraws := s.freeDraws + 1 } := by
  simp only [afterHostRead]; split <;> simp

/-! ## Peer, timeout, clock -/

/-- The peer's turn: it waits, or its next step was enabled and is taken. -/
theorem peerTurn_cases (s : State) :
    peerTurn s = s ∨ ∃ op rest, s.peer = op :: rest ∧ peerStep op { s with peer := rest } = some (peerTurn s) := by
  cases hp : s.peer with
  | nil => exact .inl (by simp [peerTurn, hp])
  | cons op rest =>
    cases ho : peerStep op { s with peer := rest } with
    | none => exact .inl (by simp [peerTurn, hp, ho])
    | some t => exact .inr ⟨op, rest, rfl, by simp [peerTurn, hp, ho]⟩

/-- What a peer step does. -/
theorem peerStep_some {op : PeerOp} {s t : State} (h : peerStep op s = some t) :
    (op = .connect ∧ s.lstate = .listening ∧ t = { s with lstate := .handshaking }) ∨
    (∃ r, op = .push r ∧ (s.lstate = .handshaking ∨ s.lstate = .ready) ∧ s.rxq.length < s.params.rxqDepth ∧
      t = { s with rxq := s.rxq ++ [r] }) ∨
    (op = .lost ∧ (s.lstate = .handshaking ∨ s.lstate = .ready) ∧ s.pend.valid = false ∧
      t = { s with lstate := .closed, rxq := [], logHist := s.logHist ++ [⟨.linkLost, 0⟩] }) ∨
    (op = .lost ∧ (s.lstate = .handshaking ∨ s.lstate = .ready) ∧ s.pend.valid = true ∧
      t = { s with
        lstate := .closed
        rxq := []
        logHist := s.logHist ++ [⟨.linkLost, 0⟩]
        pend := { s.pend with valid := false }
        lastStatus := 0x20
        response := some .linkLost
        respHist := s.respHist ++ [.linkLost] }) := by
  cases op with
  | connect =>
    simp only [peerStep] at h
    split at h
    · next hl => cases h; exact .inl ⟨rfl, hl, rfl⟩
    · cases h
  | push r =>
    simp only [peerStep] at h
    split at h
    · next hl => cases h; exact .inr (.inl ⟨r, rfl, hl.1, hl.2, rfl⟩)
    · cases h
  | lost =>
    simp only [peerStep] at h
    split at h
    · next hl =>
      cases hv : s.pend.valid <;> simp only [hv] at h <;> cases h
      · exact .inr (.inr (.inl ⟨rfl, hl, rfl, rfl⟩))
      · exact .inr (.inr (.inr ⟨rfl, hl, rfl, rfl⟩))
    · cases h

/-- What the timeout step does. -/
theorem timeoutStep_cases (s : State) :
    timeoutStep s = s ∨
    (∃ limit, s.params.xferTimeout = some limit ∧ s.lstate = .ready ∧ s.pend.valid = true ∧
      s.pend.t0.toNat + limit ≤ s.clock.toNat ∧
      timeoutStep s = { s with
        pend := { s.pend with valid := false }
        lstate := .closed
        logHist := s.logHist ++ [⟨.timeout, s.pend.tx.setWidth 32⟩]
        lastStatus := 0x21
        response := some .timeout
        respHist := s.respHist ++ [.timeout] }) := by
  unfold timeoutStep
  cases ht : s.params.xferTimeout with
  | none => exact .inl rfl
  | some limit =>
    simp only
    split
    · next h => exact .inr ⟨limit, rfl, h.1, h.2.1, h.2.2, rfl⟩
    · exact .inl rfl

/-- The wall clock never goes back. -/
theorem tick_cases (c : DWord) (s : State) :
    (s.clock ≤ c ∧ tick c s = { s with clock := c }) ∨ (¬ s.clock ≤ c ∧ tick c s = s) := by
  unfold tick; split <;> simp_all

/-! ## Inbound records -/

/-- What processing the head of the receive queue does. -/
theorem processRecord_next {r : Record} {dispose : State → State} {s t : State}
    (h : processRecord r dispose s = .next t) :
    (receiving s = false ∧ t = s) ∨
    (s.lstate = .handshaking ∧ isVersionRecord r = true ∧
      t = { s with rxq := s.rxq.tail, txHist := s.txHist ++ [r], lstate := .ready }) ∨
    (s.lstate = .handshaking ∧ isVersionRecord r = false ∧
      t = { s with
        rxq := s.rxq.tail
        logHist := s.logHist ++ [⟨.handshakeMismatch, leadingBytes r⟩]
        lstate := .failed }) ∨
    (s.lstate = .ready ∧ s.pend.valid = true ∧ t = dispose (rxPop s)) := by
  simp only [processRecord] at h
  split at h
  · next hr =>
    split at h
    · next hl =>
      cases h
      cases hv : isVersionRecord r
      · exact .inr (.inr (.inl ⟨hl, rfl, by simp [handshakeStep, hv, logEvent, rxPop]⟩))
      · exact .inr (.inl ⟨hl, rfl, by simp [handshakeStep, hv, send, rxPop]⟩)
    · next hl =>
      cases h
      refine .inr (.inr (.inr ?_))
      revert hr hl
      unfold receiving
      cases s.lstate <;> simp_all
  · next hr => cases h; exact .inl ⟨by simpa using hr, rfl⟩

/-! ## Calls of the driver -/

/-- What a call of the driver does. -/
theorem callDriver_next {id : Byte} {latch : Bool} {p : List Byte} {s t : State}
    (h : callDriver id latch p s = .next t) :
    p.length ≤ maxPayload ∧ ((hostBusy s = true ∧ t = s) ∨ (hostBusy s = false ∧
      t = { s with host := { s.host with
        driver := some (DriverRun.start id p)
        session := { s.host.session with transferNoResponse := s.host.session.transferNoResponse || latch } } })) := by
  simp only [callDriver] at h
  split at h
  · cases h
  next hl =>
  refine ⟨by omega, ?_⟩
  split at h
  · next hb => cases h; exact .inl ⟨hb, rfl⟩
  · next hb => cases h; exact .inr ⟨by simpa using hb, rfl⟩

/-! ## Requests -/

/-- The ready port's answer to a request, case by case. -/
inductive RequestEffect (s : State) : State → Prop where
  /-- the request ends with a status and no other effect -/
  | ended (st : Status) (h : st ≠ .ok) : RequestEffect s (respond st (accept s))
  /-- ENCODE wrote a frame -/
  | encoded (cmd len : Byte) (payload : List Byte) (h : s.pbuf.bytes 0 len.toNat = some payload) :
    RequestEffect s (respond .ok { accept s with
      obuf := s.obuf.setBytes 0 (encodedFrame cmd len payload)
      eLen := BitVec.ofNat 16 (8 + len.toNat)
      eCsum := csum cmd 0 0 len payload })
  /-- PARSE matched a complete frame -/
  | parsed (off n : Half) (regs : ParseRegs) (h : parseAt s.params.ibufSize s.ibuf off.toNat n.toNat = .frame regs) :
    RequestEffect s (respond .ok { accept s with parse := regs })
  /-- an XFER started -/
  | started (b : Byte) (h : s.lstate = .ready) :
    RequestEffect s { accept s with
      txHist := s.txHist ++ [xferRequest b s.params.ctrlReq (stampOf s.clock s.timeOffset)]
      xTs := stampOf s.clock s.timeOffset
      pend := { valid := true, tx := b, ts := stampOf s.clock s.timeOffset, t0 := s.clock } }
  /-- ADVANCE moved the time offset -/
  | advanced (dt : Word) (h : s.lstate = .ready) :
    RequestEffect s (respond .ok { accept s with
      timeOffset := s.timeOffset + dt.setWidth 64
      txHist := s.txHist ++ [timeSync (stampOf s.clock (s.timeOffset + dt.setWidth 64))] })

theorem startXfer_next {b : Byte} {s t : State} (h : startXfer b s = .next t) (hv : s.pend.valid = false) :
    RequestEffect s t := by
  rw [startXfer, onPort_ready hv] at h
  split at h
  · next hl => cases h; exact .started b hl
  · cases h; exact .ended .notReady (by decide)

theorem advanceTime_next {dt : Word} {s t : State} (h : advanceTime dt s = .next t) (hv : s.pend.valid = false) :
    RequestEffect s t := by
  rw [advanceTime, onPort_ready hv] at h
  split at h
  · next hl => cases h; exact .advanced dt hl
  · cases h; exact .ended .notReady (by decide)

theorem execEncode_next {cmd len : Byte} {s t : State} (h : execEncode cmd len s = .next t)
    (hv : s.pend.valid = false) : RequestEffect s t := by
  rw [execEncode, onPort_ready hv] at h
  split at h
  · cases h
  · next payload hp => cases h; exact .encoded cmd len payload hp

/-- A parse never ends with the status `OK` and no frame. -/
theorem parseAt_ends_ne_ok {size : Nat} {m : Mem} {o n : Nat} {st : Status} (h : parseAt size m o n = .ends st) :
    st ≠ .ok := by
  rintro rfl
  simp only [parseAt, parseBody] at h
  repeat' split at h
  all_goals cases h

theorem execParse_next {off n : Half} {s t : State} (h : execParse off n s = .next t) (hv : s.pend.valid = false) :
    RequestEffect s t := by
  rw [execParse, onPort_ready hv] at h
  split at h
  · next st hp => cases h; exact .ended st (parseAt_ends_ne_ok hp)
  · cases h
  · next regs hp => cases h; exact .parsed off n regs hp

/-- The instructions that a request word stands for. -/
abbrev isRequest : Instr → Bool
  | .encode _ _ | .parse _ _ | .xfer _ | .advance _ | .tsync | .poll | .eoc | .pad => true
  | _ => false

theorem decodeRequest_isRequest {q : DWord} {i : Instr} (h : decodeRequest q = .ok i) : isRequest i = true := by
  simp only [decodeRequest, nameXfer, nameAdvance] at h
  repeat' split at h
  all_goals first
    | (cases h; rfl)
    | cases h

/-- What a request instruction does: it is held, or has one of the request effects. -/
theorem exec_request_next {i : Instr} {s t : State} (hi : isRequest i = true) (h : exec i s = .next t) :
    (s.pend.valid = true ∧ t = s) ∨ (s.pend.valid = false ∧ RequestEffect s t) := by
  cases hv : s.pend.valid with
  | true =>
    refine .inl ⟨rfl, ?_⟩
    have : exec i s = .next s := by
      cases i <;> first
        | exact Bool.noConfusion hi
        | simp [exec, execEncode, execParse, execXfer, execAdvance, execTsync, execPoll, execEoc, execPad, startXfer,
            advanceTime, onPort, hv]
    rw [this] at h; cases h; rfl
  | false =>
    refine .inr ⟨rfl, ?_⟩
    cases i <;> first
      | exact execEncode_next h hv
      | exact execParse_next h hv
      | exact startXfer_next h hv
      | exact advanceTime_next h hv
      | exact Bool.noConfusion hi

/-- What offering a request word to the port does. -/
theorem issueRequest_next {q : DWord} {s t : State} (h : issueRequest q s = .next t) :
    (s.pend.valid = true ∧ t = s) ∨ (s.pend.valid = false ∧ RequestEffect s t) := by
  simp only [issueRequest, decode] at h
  split at h
  · next i hi => exact exec_request_next (decodeRequest_isRequest hi) h
  · rcases onPort_cases h with ⟨hv, rfl⟩ | ⟨hv, h⟩
    · exact .inl ⟨hv, rfl⟩
    · cases h; exact .inr ⟨hv, .ended .badRequest (by decide)⟩

end Sys2Proof.Machine
end

