-- ==== Sys2Proof/Laws/Run.lean ====
section
/-! SUPPORT. How a run stands, said by what holds of the state. -/

namespace Sys2Proof.Machine

/-- With an XFER pending the run hangs exactly when it cannot respond. -/
theorem runStatus_pending_eq_hung {s : State} (h : s.pend.valid = true) :
    runStatus s = .hung ↔ canRespond s = false := by
  simp [runStatus, h]

/-- A pending XFER cannot respond: none of the three ways is open. -/
theorem canRespond_eq_false {s : State} : canRespond s = false ↔ (s.lstate = .ready →
    (∀ r ∈ s.rxq, r.code ≠ 0x69) ∧ (∀ op ∈ peerAhead s, op.endsXfer = false) ∧ timeoutReachable s = false) := by
  by_cases h : s.lstate = .ready <;> simp [canRespond, h, and_assoc]

/-- The steps of a host's program that issue no request. -/
theorem issues_eq_false {op : HostOp} : op.issues = false ↔
    (∀ q, op ≠ .request q) ∧ (∀ num den, op ≠ .advanceTime num den) ∧ (∀ id p, op ≠ .command id p) ∧
      ∀ trace, op ≠ .scan trace := by
  cases op <;> simp [HostOp.issues]

end Sys2Proof.Machine
end

