-- ==== Sys2Proof/Laws/Step.lean ====
section
/-! SUPPORT. Inversion of the host's turn, the core's turn on a record, and the whole step: if one of them answers a
next state, one of the listed effects has happened. -/

namespace Sys2Proof.Machine

/-- What a turn of the host does to the machine. -/
inductive HostEffect (s : State) : State → Prop where
  /-- only the host layer moved (and the free values it drew) -/
  | layer (h : HostState) (k : Nat) : HostEffect s { s with host := h, freeDraws := k }
  /-- a request ran on the ready port -/
  | request (h : HostState) (k : Nat) (t : State) (hv : s.pend.valid = false)
    (e : RequestEffect { s with host := h, freeDraws := k } t) : HostEffect s t
  /-- the host wrote `PBUF` -/
  | wrotePbuf (h : HostState) (i : Nat) (bs : List Byte) (hv : s.pend.valid = false) (hi : i + bs.length ≤ 256) :
    HostEffect s { s with host := h, pbuf := s.pbuf.setBytes i bs }
  /-- the host wrote `IBUF` -/
  | wroteIbuf (h : HostState) (i : Nat) (bs : List Byte) (hv : s.pend.valid = false)
    (hi : i + bs.length ≤ s.params.ibufSize) : HostEffect s { s with host := h, ibuf := s.ibuf.setBytes i bs }

/-- A state that differs from `s` in the host layer only. -/
theorem HostEffect.of_layer {s t : State} (h : t = { s with host := t.host, freeDraws := t.freeDraws }) :
    HostEffect s t := by
  rw [h]; exact .layer _ _

theorem HostEffect.of_write {sp : Space} {i : Nat} {bs : List Byte} {s u t : State}
    (hu : u = { s with host := u.host }) (h : hostWrite sp i bs u = .next t) : HostEffect s t := by
  obtain ⟨hv, hi, ⟨rfl, rfl⟩ | ⟨rfl, rfl⟩⟩ := hostWrite_next h <;> rw [hu] at hv hi ⊢
  · exact .wrotePbuf u.host i bs hv hi
  · exact .wroteIbuf u.host i bs hv hi

theorem HostEffect.of_request {q : DWord} {s u t : State}
    (hu : u = { s with host := u.host, freeDraws := u.freeDraws }) (h : issueRequest q u = .next t) :
    HostEffect s t := by
  rcases issueRequest_next h with ⟨-, rfl⟩ | ⟨hv, he⟩
  · exact .of_layer hu
  · rw [hu] at hv he; exact .request u.host u.freeDraws t hv he

theorem HostEffect.of_offer {q : DWord} {s u t : State}
    (hu : u = { s with host := u.host, freeDraws := u.freeDraws }) (h : offerRequest q s u = .next t) :
    HostEffect s t := by
  simp only [offerRequest] at h
  split at h
  · cases h; exact .layer s.host s.freeDraws
  · exact .of_request hu h

theorem HostEffect.of_call {id : Byte} {latch : Bool} {p : List Byte} {s u t : State}
    (hu : u = { s with host := u.host }) (h : callDriver id latch p u = .next t) : HostEffect s t := by
  obtain ⟨-, ⟨-, rfl⟩ | ⟨-, rfl⟩⟩ := callDriver_next h
  · rw [hu]; exact .layer _ _
  · rw [hu]; exact .layer _ _

theorem driverReply_layer (d : DriverRun) (x : Byte) (s : State) :
    driverReply d x s = { s with host := (driverReply d x s).host } := by
  unfold driverReply
  cases d.phase <;> simp only <;> repeat' split
  all_goals rfl

theorem driverTurn_next {d : DriverRun} {s t : State} (h : driverTurn d s = .next t) : HostEffect s t := by
  simp only [driverTurn] at h
  split at h
  · split at h
    · next st _ =>
      cases h
      refine .of_layer ?_
      unfold driverResume
      split
      · rw [driverReply_layer]
      · rfl
    · cases h; exact .layer s.host s.freeDraws
  split at h
  · exact .of_write (u := goPhase .encode d s) rfl h
  split at h
  · cases h; exact .layer s.host s.freeDraws
  · refine .of_request ?_ h
    unfold phaseIssued
    split
    · rcases afterHostRead_cases s .obuf _ with e | e <;> rw [e] <;> rfl
    · rfl
    · rfl

theorem scanTurn_next {r : ScanRun} {s t : State} (h : scanTurn r s = .next t) : HostEffect s t := by
  simp only [scanTurn] at h
  split at h
  · split at h
    · split at h <;> cases h <;> exact .of_layer rfl
    · cases h; exact .of_layer rfl
  · next sender _ => exact .of_write (u := setScan { r with phase := .issue sender } s) rfl h
  · next sender _ =>
    split at h
    · cases h; exact .layer s.host s.freeDraws
    · exact .of_request (u := setScan { r with phase := .report sender } s) rfl h
  · split at h
    · cases h
      refine .of_layer ?_
      unfold scanReport
      split <;> rfl
    · cases h; exact .layer s.host s.freeDraws

/-- Each command of the table is a call of the driver with its id. -/
theorem commandTable_exec (p : List Byte) (s : State) :
    ∀ row ∈ commandTable, ∃ latch, exec (row.2 p) s = callDriver row.1 latch p s := by
  intro row h
  simp only [commandTable, List.mem_cons, List.not_mem_nil, or_false] at h
  rcases h with rfl | rfl | rfl | rfl | rfl | rfl | rfl | rfl | rfl | rfl | rfl | rfl | rfl | rfl | rfl | rfl | rfl
    | rfl | rfl | rfl | rfl
  all_goals exact ⟨_, rfl⟩

/-- A command instruction calls the driver with its id. -/
theorem decodeCommand_exec {id : Byte} {p : List Byte} {i : Instr} (h : decodeCommand id p = .ok i) (s : State) :
    ∃ latch, exec i s = callDriver id latch p s := by
  simp only [decodeCommand] at h
  split at h
  · split at h
    · next row hrow =>
      cases h
      have hid : row.1 = id := by simpa using List.find?_some hrow
      exact hid ▸ commandTable_exec p s row (List.mem_of_find?_eq_some hrow)
    · cases h
  · cases h

theorem hostOp_next {op : HostOp} {s t : State} (h : hostOp op s (popHost s) = .next t) : HostEffect s t := by
  cases op with
  | request q => exact .of_offer (u := popHost s) rfl h
  | advanceTime num den =>
    simp only [hostOp, offerAdvance] at h
    split at h
    · exact .of_offer (u := popHost s) rfl h
    · exact .of_offer (u := { popHost s with freeDraws := s.freeDraws + 1 }) rfl h
  | writePbuf i bs => exact .of_write (u := popHost s) rfl h
  | writeIbuf i bs => exact .of_write (u := popHost s) rfl h
  | readReg index => cases h; exact .of_layer rfl
  | readByte sp i =>
    simp only [hostOp] at h
    split at h
    · cases h
      refine .of_layer ?_
      rcases afterHostRead_cases (popHost s) sp i with e | e <;> rw [e] <;> rfl
    · cases h
  | command id p =>
    simp only [hostOp, decode] at h
    split at h
    · next i hi =>
      obtain ⟨latch, e⟩ := decodeCommand_exec hi (popHost s)
      rw [e] at h
      exact .of_call (u := popHost s) rfl h
    · exact .of_call (u := popHost s) rfl h
  | setTransferNoResponse => cases h; exact .of_layer rfl
  | newSession => cases h; exact .of_layer rfl
  | scan trace => cases h; exact .of_layer rfl

/-- What a turn of the host does. -/
theorem hostTurn_next {s t : State} (h : hostTurn s = .next t) : HostEffect s t := by
  simp only [hostTurn] at h
  split at h
  · exact driverTurn_next h
  · exact scanTurn_next h
  · split at h
    · cases h; exact .layer s.host s.freeDraws
    · exact hostOp_next h

/-- What the core's turn on the receive queue does. -/
inductive ReceiveEffect (s : State) : State → Prop where
  /-- nothing is processed -/
  | waits : ReceiveEffect s s
  /-- the handshake matches and the record is echoed -/
  | matched (r : Record) (rs : List Record) (hq : s.rxq = r :: rs) (hl : s.lstate = .handshaking)
    (hr : isVersionRecord r = true) :
    ReceiveEffect s { s with rxq := rs, txHist := s.txHist ++ [r], lstate := .ready }
  /-- the handshake fails -/
  | mismatched (r : Record) (rs : List Record) (hq : s.rxq = r :: rs) (hl : s.lstate = .handshaking)
    (hr : isVersionRecord r = false) :
    ReceiveEffect s { s with
      rxq := rs
      logHist := s.logHist ++ [⟨.handshakeMismatch, leadingBytes r⟩]
      lstate := .failed }
  /-- a reply completes the pending XFER -/
  | completed (r : Record) (rs : List Record) (hq : s.rxq = r :: rs) (hl : s.lstate = .ready)
    (hv : s.pend.valid = true) (hr : r.code = 0x69) :
    ReceiveEffect s (completeXfer r.fieldB { s with rxq := rs })
  /-- any other record is dropped, with at most a log entry, and the XFER keeps waiting -/
  | dropped (r : Record) (rs : List Record) (log : List LogEntry) (hq : s.rxq = r :: rs) (hl : s.lstate = .ready)
    (hv : s.pend.valid = true) (hr : r.code ≠ 0x69) (hlog : log.length ≤ 1) :
    ReceiveEffect s { s with rxq := rs, logHist := s.logHist ++ log }

/-- What the core's turn on the receive queue does. -/
theorem receiveTurn_next {s t : State} (h : receiveTurn s = .next t) : ReceiveEffect s t := by
  simp only [receiveTurn] at h
  split at h
  swap
  · cases h; exact .waits
  split at h
  swap
  · cases h; exact .waits
  next r rs hq =>
  have key : ∀ dispose : State → State, processRecord r dispose s = .next t →
      (∀ u : State, (r.code = 0x69 ∧ dispose u = completeXfer r.fieldB u) ∨
        (r.code ≠ 0x69 ∧ ∃ log : List LogEntry, log.length ≤ 1 ∧ dispose u = { u with logHist := u.logHist ++ log })) →
      ReceiveEffect s t := by
    intro dispose hp hd
    rcases processRecord_next hp with ⟨-, rfl⟩ | ⟨hl, hv, rfl⟩ | ⟨hl, hv, rfl⟩ | ⟨hl, hv, rfl⟩
    · exact .waits
    · rw [hq]; exact .matched r rs hq hl hv
    · rw [hq]; exact .mismatched r rs hq hl hv
    · have e : rxPop s = { s with rxq := rs } := by simp [rxPop, hq]
      rcases hd (rxPop s) with ⟨hc, he⟩ | ⟨hc, log, hlog, he⟩
      · rw [he, e]; exact .completed r rs hq hl hv hc
      · rw [he, e]; exact .dropped r rs log hq hl hv hc hlog
  have logs : ∀ (k : LogKind) (c : Byte) (u : State), ∃ log : List LogEntry, log.length ≤ 1 ∧
      logCode k c u = { u with logHist := u.logHist ++ log } := fun k c u => ⟨[⟨k, c.setWidth 32⟩], by simp, rfl⟩
  have silent : ∀ u : State, ∃ log : List LogEntry, log.length ≤ 1 ∧ id u = { u with logHist := u.logHist ++ log } :=
    fun u => ⟨[], by simp, by simp⟩
  have hr := mkRecord_ts r
  unfold decodeRecord at h
  split at h
  · next hc =>
    rw [hc] at hr
    simp only [exec, execRecVersion, hr] at h
    exact key (logCode .unexpectedEvent 0x01) h fun u => .inr ⟨by rw [hc]; decide, logs _ _ u⟩
  split at h
  · next hc =>
    rw [hc] at hr
    simp only [exec, execRecJoypad, hr] at h
    exact key id h fun u => .inr ⟨by rw [hc]; decide, silent u⟩
  split at h
  · next hc =>
    rw [hc] at hr
    simp only [exec, execRecXferReq, hr] at h
    exact key (logCode .unexpectedEvent 0x68) h fun u => .inr ⟨by rw [hc]; decide, logs _ _ u⟩
  split at h
  · next hc =>
    rw [hc] at hr
    simp only [exec, execRecXferReply, hr] at h
    exact key (completeXfer r.fieldB) h fun u => .inl ⟨hc, rfl⟩
  split at h
  · next hc =>
    rw [hc] at hr
    simp only [exec, execRecTimeSync, hr] at h
    exact key (logCode .unexpectedEvent 0x6A) h fun u => .inr ⟨by rw [hc]; decide, logs _ _ u⟩
  split at h
  · next hc =>
    rw [hc] at hr
    simp only [exec, execRecStatus, hr] at h
    exact key id h fun u => .inr ⟨by rw [hc]; decide, silent u⟩
  split at h
  · next hc =>
    rw [hc] at hr
    simp only [exec, execRecDisconnectReq, hr] at h
    exact key id h fun u => .inr ⟨by rw [hc]; decide, silent u⟩
  · next hc _ _ _ =>
    simp only [exec, execRecUnknown, hr] at h
    exact key (logCode .unknownEvent r.code) h fun u => .inr ⟨by assumption, logs _ _ u⟩

/-! ## The step -/

/-- What a step does, from the state whose schedule has lost its head. -/
inductive StepEffect (s : State) : State → Prop where
  /-- no agent has a turn -/
  | idle (h : s.script = []) : StepEffect s s
  /-- the host's turn -/
  | host (rest : List Turn) (h : s.script = .host :: rest) (t : State) (e : HostEffect { s with script := rest } t) :
    StepEffect s t
  /-- the peer's turn -/
  | peer (rest : List Turn) (h : s.script = .peer :: rest) : StepEffect s (peerTurn { s with script := rest })
  /-- the wall clock -/
  | tick (rest : List Turn) (c : DWord) (h : s.script = .tick c :: rest) :
    StepEffect s (tick c { s with script := rest })
  /-- the core's turn on the receive queue -/
  | receive (rest : List Turn) (h : s.script = .receive :: rest) (t : State)
    (e : ReceiveEffect { s with script := rest } t) : StepEffect s t
  /-- the core's turn on the timeout -/
  | timeout (rest : List Turn) (h : s.script = .timeout :: rest) :
    StepEffect s (timeoutStep { s with script := rest })
  /-- reset -/
  | reset (rest : List Turn) (h : s.script = .reset :: rest) : StepEffect s (blockReset { s with script := rest })

/-- All a step can do: every property that steps keep follows from this list. -/
theorem step_next {s t : State} (h : step s = .next t) : StepEffect s t := by
  simp only [step] at h
  split at h
  · next hs => cases h; exact .idle hs
  next turn rest hs =>
  split at h
  · exact .host rest hs t (hostTurn_next h)
  · cases h; exact .peer rest hs
  · next c => cases h; exact .tick rest c hs
  · exact .receive rest hs t (receiveTurn_next h)
  · cases h; exact .timeout rest hs
  · cases h; exact .reset rest hs

end Sys2Proof.Machine
end

