-- ==== Sys2Proof/Tests/Slice0.lean ====
section
/-! SUPPORT. Tests of the model on the words and vectors of spec/95_test_vectors.md (a comment names each vector), and
for every statement of Certificates/Slice0/Obligations.lean that has hypotheses a witness that meets them. -/

namespace Sys2Proof.Tests

open Sys2Proof.Machine Sys2Proof.Claims

/-! ## Small states -/

/-- The parameter values the vectors take: `IBUF_SIZE = 300`, no timeout. -/
def prm : Params := ⟨2097152, 300, 0x81, none, 2⟩

/-- After reset, with those parameters. -/
def base : State := { State.reset with params := prm }

/-- The link READY, the clock at 0x00123456. -/
def linked : State := { base with lstate := .ready, clock := 0x123456 }

/-- The same with `XFER 0x10` pending. -/
def waiting : State := { linked with pend := ⟨true, 0x10, 0x123456, 0x123456⟩, xTs := 0x123456 }

/-- The next turn is the host's, with one step in its program. -/
def hostAt (op : HostOp) (s : State) : State := { s with script := [.host], host := { s.host with queue := [op] } }

/-- The next turn is the core's, with one record in the queue. -/
def receiveAt (r : Record) (s : State) : State := { s with script := [.receive], rxq := [r] }

/-- The next turn is the peer's, with one step. -/
def peerAt (op : PeerOp) (s : State) : State := { s with script := [.peer], peer := [op] }

/-- Bytes in `PBUF` from index 0. -/
def withPbuf (bs : List Byte) (s : State) : State := { s with pbuf := Mem.setBytes [] 0 bs }

/-- Bytes in `IBUF` from index 0. -/
def withIbuf (bs : List Byte) (s : State) : State := { s with ibuf := Mem.setBytes [] 0 bs }

/-- A driver call in a phase, waiting or not. -/
def calling (phase : DriverPhase) (w : Bool) : DriverRun := ⟨0x11, [], phase, w, [], [], 0⟩

/-- The host runs a driver call. -/
def driving (d : DriverRun) (s : State) : State := { s with script := [.host], host := { s.host with driver := some d } }

/-- The host runs a scan. -/
def scanning (r : ScanRun) (s : State) : State := { s with script := [.host], host := { s.host with scan := some r } }

/-- What a next state shows, none where the machine stops. -/
def view {α : Type} (f : State → α) : Result → Option α
  | .next t => some (f t)
  | _ => none

/-- The fault, none where there is none. -/
def faultOf : Result → Option Fault
  | .fault f => some f
  | _ => none

theorem exists_next {o : Result} {P : State → Prop} [DecidablePred P] (h : view (fun t => decide (P t)) o = some true) :
    ∃ t, o = .next t ∧ P t := by
  cases o with
  | next t => exact ⟨t, rfl, of_decide_eq_true (Option.some.inj h)⟩
  | fault f => cases h
  | refused r => cases h

/-! ## Well-formedness: an ill-formed term for each check -/

theorem test_wellFormed_refuses_xfer_4B : Instr.wellFormed (.xfer 0x4B) = false := by decide
theorem test_wellFormed_refuses_xfer_80 : Instr.wellFormed (.xfer 0x80) = false := by decide
theorem test_wellFormed_refuses_xfer_00 : Instr.wellFormed (.xfer 0x00) = false := by decide
theorem test_wellFormed_refuses_advance_0 : Instr.wellFormed (.advance 0) = false := by decide
theorem test_wellFormed_refuses_unknown_of_known_code :
    [0x01, 0x65, 0x68, 0x69, 0x6A, 0x6C, 0x6D].all (fun c => !Instr.wellFormed (.recUnknown c 0 0 0 0)) = true := by
  decide

/-- A payload of 256 bytes. -/
def long : List Byte := List.replicate 256 0

theorem test_wellFormed_refuses_long_payloads :
    [Instr.cmdBeginSession long, .cmdEndSession long, .cmdDial long, .cmdHangUp long, .cmdWaitForCall long,
      .cmdTransferData long, .cmdReset long, .cmdTelephoneStatus long, .cmdSio32Mode long, .cmdReadConfig long,
      .cmdWriteConfig long, .cmdTransferDataEnd long, .cmdIspLogin long, .cmdIspLogout long, .cmdOpenTcp long,
      .cmdCloseTcp long, .cmdOpenUdp long, .cmdCloseUdp long, .cmdDnsQuery long, .cmdFirmwareVersion long,
      .cmdError long].all (fun i => !i.wellFormed) = true := by decide +kernel

/-! ## Decoding: a word of every constructor, written out from 30_encoding.md -/

/-- R82 (V-E1). -/
theorem test_decode_encode : decodeTableWord 64 0x0110080000000000 = some (.encode 0x10 0x08) := by decide
/-- R83 (P1). -/
theorem test_decode_parse : decodeTableWord 64 0x02000000000F000E = some (.parse 15 14) := by decide
/-- R84 (V-X1). -/
theorem test_decode_xfer : decodeTableWord 64 0x1099000000000000 = some (.xfer 0x99) := by decide
/-- R85 (V-A3). -/
theorem test_decode_advance : decodeTableWord 64 0x11000000FFFFFFFF = some (.advance 0xFFFFFFFF) := by decide
/-- R104 (P3). -/
theorem test_decode_pseudo :
    decodeTableWord 64 0x1100000000000000 = some .tsync ∧ decodeTableWord 64 0x104B000000000000 = some .poll ∧
    decodeTableWord 64 0x1080000000000000 = some .eoc ∧ decodeTableWord 64 0x1000000000000000 = some .pad := by decide

/-- V-D1 to V-D7, V-E8, V-E9, V-P20. -/
theorem test_decode_refuses_illegal_words :
    ([0x0000000000000000, 0x0300000000000000, 0xFF00000000000000, 0x1099010000000000, 0x1099000000000001,
      0x1101000000000000, 0x020000010000000A, 0x0110020000000001, 0x0110020100000000, 0x020100000000000A] :
      List Nat).all (fun w => decodeTableWord 64 w == none) = true := by decide

/-- R89 to R96: eight bytes of a record, the timestamp little-endian. -/
theorem test_decode_records :
    decode (.record ⟨0x01, 0x01, 0x04, 0x00, 0x78, 0x56, 0x34, 0x12⟩) = .ok (.recVersion 0x01 0x04 0x00 0x12345678) ∧
    decode (.record ⟨0x65, 0x01, 0, 0, 1, 0, 0, 0⟩) = .ok (.recJoypad 0x01 0 0 1) ∧
    decode (.record ⟨0x68, 0x02, 0, 0, 0, 1, 0, 0⟩) = .ok (.recXferReq 0x02 0 0 0x100) ∧
    decode (.record ⟨0x69, 0xD2, 0x80, 0, 0, 0, 1, 0⟩) = .ok (.recXferReply 0xD2 0x80 0 0x10000) ∧
    decode (.record ⟨0x6A, 0, 0x03, 0, 0, 0, 0, 1⟩) = .ok (.recTimeSync 0 0x03 0 0x1000000) ∧
    decode (.record ⟨0x6C, 0, 0, 0x04, 0, 0, 0, 0x80⟩) = .ok (.recStatus 0 0 0x04 0x80000000) ∧
    decode (.record ⟨0x6D, 0, 0, 0, 0, 0, 0, 0⟩) = .ok (.recDisconnectReq 0 0 0 0) ∧
    decode (.record ⟨0x6B, 1, 2, 3, 4, 0, 0, 0⟩) = .ok (.recUnknown 0x6B 1 2 3 4) := by decide

/-- The one-byte rows of the table: event codes. -/
theorem test_decode_event_codes :
    decodeTableWord 8 0x01 = some (.recVersion 0 0 0 0) ∧ decodeTableWord 8 0x65 = some (.recJoypad 0 0 0 0) ∧
    decodeTableWord 8 0x68 = some (.recXferReq 0 0 0 0) ∧ decodeTableWord 8 0x69 = some (.recXferReply 0 0 0 0) ∧
    decodeTableWord 8 0x6A = some (.recTimeSync 0 0 0 0) ∧ decodeTableWord 8 0x6C = some (.recStatus 0 0 0 0) ∧
    decodeTableWord 8 0x6D = some (.recDisconnectReq 0 0 0 0) ∧
    decodeTableWord 8 0x00 = some (.recUnknown 0x00 0 0 0 0) := by decide

/-- R102: the 21 command ids. -/
theorem test_decode_commands :
    [decodeTableWord 8 0x10, decodeTableWord 8 0x11, decodeTableWord 8 0x12, decodeTableWord 8 0x13,
      decodeTableWord 8 0x14, decodeTableWord 8 0x15, decodeTableWord 8 0x16, decodeTableWord 8 0x17,
      decodeTableWord 8 0x18, decodeTableWord 8 0x19, decodeTableWord 8 0x1A, decodeTableWord 8 0x1F,
      decodeTableWord 8 0x21, decodeTableWord 8 0x22, decodeTableWord 8 0x23, decodeTableWord 8 0x24,
      decodeTableWord 8 0x25, decodeTableWord 8 0x26, decodeTableWord 8 0x28, decodeTableWord 8 0x3F,
      decodeTableWord 8 0x6E] =
    [some (.cmdBeginSession []), some (.cmdEndSession []), some (.cmdDial []), some (.cmdHangUp []),
      some (.cmdWaitForCall []), some (.cmdTransferData []), some (.cmdReset []), some (.cmdTelephoneStatus []),
      some (.cmdSio32Mode []), some (.cmdReadConfig []), some (.cmdWriteConfig []), some (.cmdTransferDataEnd []),
      some (.cmdIspLogin []), some (.cmdIspLogout []), some (.cmdOpenTcp []), some (.cmdCloseTcp []),
      some (.cmdOpenUdp []), some (.cmdCloseUdp []), some (.cmdDnsQuery []), some (.cmdFirmwareVersion []),
      some (.cmdError [])] := by decide

/-- R102, R214: an id outside the list is no instruction of the table, and a long payload is no call. -/
theorem test_decode_refuses_commands :
    decode (.command 0x20 []) = .error (.unlistedCommand 0x20) ∧
    decode (.command 0x10 long) = .error (.payloadTooLong 256) := by decide +kernel

/-! ## One step of each instruction -/

/-- V-E1. -/
theorem test_encode_nintendo :
    view (fun t => (t.obuf.bytes 0 16, t.eLen, t.eCsum, t.lastStatus))
      (exec (.encode 0x10 8) (withPbuf [0x4E, 0x49, 0x4E, 0x54, 0x45, 0x4E, 0x44, 0x4F] base)) =
    some (some [0x99, 0x66, 0x10, 0x00, 0x00, 0x08, 0x4E, 0x49, 0x4E, 0x54, 0x45, 0x4E, 0x44, 0x4F, 0x02, 0x77],
      16, 0x0277, 0x00) := by decide

/-- V-E11. -/
theorem test_encode_unwritten :
    faultOf (exec (.encode 0x10 2) (withPbuf [0x01] base)) = some .unwrittenRead := by decide

/-- V-P9, at offset 0 with the checksum byte altered. -/
theorem test_parse_mismatch :
    view (fun t => t.parse) (exec (.parse 0 10)
      (withIbuf [0x99, 0x66, 0x11, 0x00, 0x00, 0x00, 0x00, 0x12, 0x80, 0x00] base)) =
    some ⟨1, 0x11, 0, 0, 0, 0x0011, 0x0012, 0x80, 0x00, 10, 6⟩ := by decide

/-- V-P13: a length byte that runs past the supplied bytes. -/
theorem test_parse_incomplete :
    view (fun t => (t.lastStatus, t.parse)) (exec (.parse 0 10)
      (withIbuf [0x99, 0x66, 0x11, 0x00, 0x00, 0x01, 0x00, 0x00, 0x11, 0x80] base)) =
    some (0x02, ParseRegs.zero) := by decide

/-- V-X1, the start step. -/
theorem test_xfer_sends :
    view (fun t => (t.txHist, t.xTs, t.pend, t.response)) (exec (.xfer 0x99) linked) =
    some ([⟨0x68, 0x99, 0x81, 0x00, 0x56, 0x34, 0x12, 0x00⟩], 0x123456, ⟨true, 0x99, 0x123456, 0x123456⟩, none) := by
  decide

/-- V-X10. -/
theorem test_xfer_not_ready :
    view (fun t => (t.lastStatus, t.txHist, t.pend.valid)) (exec (.xfer 0x10) base) = some (0x11, [], false) := by decide

/-- V-A3 and V-T5: the offset exceeds 32 bits and the timestamp wraps. -/
theorem test_advance_wraps_the_stamp :
    view (fun t => (t.timeOffset, t.txHist))
      (exec (.advance 0xFFFFFFFF) { linked with timeOffset := 0xFFFFFFFF, clock := 3 }) =
    some (0x1FFFFFFFE, [⟨0x6A, 0x00, 0x00, 0x00, 0x01, 0x00, 0x00, 0x00⟩]) := by decide

/-- V-T4: bit 31 of the sum is masked. -/
theorem test_tsync_masks_bit_31 :
    view (fun t => (t.timeOffset, t.txHist)) (exec .tsync { linked with clock := 0xFFFFFFFF }) =
    some (0, [⟨0x6A, 0x00, 0x00, 0x00, 0xFF, 0xFF, 0xFF, 0x7F⟩]) := by decide

/-- P3: the bytes of the three pseudo-transfers. -/
theorem test_pseudo_xfers_send :
    [Instr.poll, .eoc, .pad].map (fun i => view (fun t => t.txHist) (exec i { linked with clock := 0x10B0 })) =
    [some [⟨0x68, 0x4B, 0x81, 0x00, 0xB0, 0x10, 0x00, 0x00⟩], some [⟨0x68, 0x80, 0x81, 0x00, 0xB0, 0x10, 0x00, 0x00⟩],
      some [⟨0x68, 0x00, 0x81, 0x00, 0xB0, 0x10, 0x00, 0x00⟩]] := by decide

/-- V-H1 to V-H4. -/
theorem test_handshake :
    view (fun t => (t.lstate, t.txHist)) (step (receiveAt ⟨0x01, 0x01, 0x04, 0x00, 0x78, 0x56, 0x34, 0x12⟩
      { base with lstate := .handshaking })) =
      some (.ready, [⟨0x01, 0x01, 0x04, 0x00, 0x78, 0x56, 0x34, 0x12⟩]) ∧
    view (fun t => (t.lstate, t.txHist, t.logHist)) (step (receiveAt ⟨0x01, 0x01, 0x05, 0x00, 0, 0, 0, 0⟩
      { base with lstate := .handshaking })) = some (.failed, [], [⟨.handshakeMismatch, 0x01010500⟩]) ∧
    view (fun t => (t.lstate, t.logHist)) (step (receiveAt ⟨0x65, 0x00, 0x00, 0x00, 0, 0, 0, 0⟩
      { base with lstate := .handshaking })) = some (.failed, [⟨.handshakeMismatch, 0x65000000⟩]) ∧
    view (fun t => (t.lstate, t.logHist)) (step (receiveAt ⟨0x01, 0x01, 0x04, 0x01, 0, 0, 0, 0⟩
      { base with lstate := .handshaking })) = some (.failed, [⟨.handshakeMismatch, 0x01010401⟩]) := by decide

/-- V-R1 to V-R3 and V-R5 to V-R8. -/
theorem test_dispositions :
    [(0x01 : Byte), 0x65, 0x68, 0x6A, 0x6C, 0x6D, 0x6E].map (fun c =>
      view (fun t => (t.rxq, t.pend.valid, t.lstate, t.logHist)) (step (receiveAt ⟨c, 0, 0, 0, 0, 0, 0, 0⟩ waiting))) =
    [some ([], true, .ready, [⟨.unexpectedEvent, 0x01⟩]), some ([], true, .ready, []),
      some ([], true, .ready, [⟨.unexpectedEvent, 0x68⟩]), some ([], true, .ready, [⟨.unexpectedEvent, 0x6A⟩]),
      some ([], true, .ready, []), some ([], true, .ready, []), some ([], true, .ready, [⟨.unknownEvent, 0x6E⟩])] := by
  decide

/-- V-R4, V-X1: the reply completes the XFER. -/
theorem test_reply_completes :
    view (fun t => (t.xRx, t.pend.valid, t.lastStatus, t.response, t.rxq))
      (step (receiveAt ⟨0x69, 0xD2, 0x80, 0x00, 0, 0, 0, 0⟩ waiting)) = some (0xD2, false, 0x00, some .ok, []) := by
  decide

/-- V-X8: the next draw is exactly `XFER_TIMEOUT` ticks after the start. -/
theorem test_timeout :
    view (fun t => (t.lstate, t.lastStatus, t.logHist, t.xRx)) (step { waiting with
      params := { prm with xferTimeout := some 0x100 }, clock := 0x123556, script := [.timeout] }) =
    some (.closed, 0x21, [⟨.timeout, 0x10⟩], 0) := by decide

/-- V-X7. -/
theorem test_peer_lost :
    view (fun t => (t.lstate, t.lastStatus, t.logHist, t.rxq, t.xTs)) (step (peerAt .lost waiting)) =
    some (.closed, 0x20, [⟨.linkLost, 0⟩], [], 0x123456) := by decide

/-- R214, R213: each command starts the driver's exchange with its id; an empty transfer-data sets the latch. -/
theorem test_commands_start_the_driver :
    [Instr.cmdBeginSession [], .cmdEndSession [], .cmdDial [], .cmdHangUp [], .cmdWaitForCall [], .cmdTransferData [],
      .cmdReset [], .cmdTelephoneStatus [], .cmdSio32Mode [], .cmdReadConfig [], .cmdWriteConfig [],
      .cmdTransferDataEnd [], .cmdIspLogin [], .cmdIspLogout [], .cmdOpenTcp [], .cmdCloseTcp [], .cmdOpenUdp [],
      .cmdCloseUdp [], .cmdDnsQuery [], .cmdFirmwareVersion [], .cmdError []].map (fun i =>
        view (fun t => (t.host.driver.map DriverRun.cmd, t.host.session.transferNoResponse)) (exec i base)) =
    [0x10, 0x11, 0x12, 0x13, 0x14].map (fun c => some (some c, false)) ++ [some (some 0x15, true)] ++
      [0x16, 0x17, 0x18, 0x19, 0x1A, 0x1F, 0x21, 0x22, 0x23, 0x24, 0x25, 0x26, 0x28, 0x3F, 0x6E].map
        (fun c => some (some c, false)) := by decide

/-- V-DR10: the reply to a marker differs from the learned id. -/
theorem test_driver_reports_drift :
    view (fun t => (t.host.findings, t.host.session.peerDeviceId, t.host.driver.map DriverRun.phase))
      (step (driving (calling .eoc true) { linked with
        xRx := 0x89, response := some .ok, host := { HostState.idle with session := ⟨some 0x80, some 0x88, false⟩ } })) =
    some ([⟨0x88, 0x89⟩], some 0x88, some .pad) := by decide

/-- V-S7, the report of its frame. -/
theorem test_scan_reports_all_findings :
    view (fun t => t.host.scan.map ScanRun.report) (step (scanning
      { trace := [0x00, 0x99, 0x00, 0x99, 0x66, 0x11, 0x01, 0x00, 0x00, 0x00, 0x12, 0x80, 0x4B].zip
          (List.replicate 11 0xD2 ++ [0x88, 0x00]),
        i := 3, learnedA := none, learnedB := none, report := [], phase := .report .a }
      { linked with response := some .ok, parse := ⟨2, 0x11, 0x01, 0, 0, 0x12, 0x12, 0x80, 0x4B, 10, 6⟩ })) =
    some (some [.frame 0x11 .a 3, .reservedFieldAnomaly, .sendAckNonZero 0x4B, .receiveAckMismatch 0x91 0x00]) := by
  decide

/-- R298: the run stands running while the host has a request left, and while a reply is queued; a silent peer makes a
hang, and so does a reset that takes the driver's request away. -/
theorem test_run_status :
    [runStatus base, runStatus (hostAt (.request 0x1100000000000000) base), runStatus (hostAt (.readReg 0) base),
      runStatus (driving (calling .tsync false) linked), runStatus waiting,
      runStatus (receiveAt ⟨0x69, 0xD2, 0x80, 0, 0, 0, 0, 0⟩ waiting),
      runStatus { waiting with peer := [.push ⟨0x65, 0, 0, 0, 0, 0, 0, 0⟩, .lost] },
      runStatus { waiting with peer := [.connect, .lost] },
      runStatus (driving (calling .tsync true) { base with response := some .ok }),
      runStatus (driving (calling .tsync true) base)] =
    [.ended, .running, .ended, .running, .hung, .running, .running, .hung, .running, .hung] := by decide

/-- R85: 1/3 of a second is `floor(2097152 / 3)` ticks. -/
theorem test_advance_by_seconds :
    view (fun t => (t.timeOffset, t.freeDraws)) (step (hostAt (.advanceTime 1 2) linked)) = some (699050, 0) := by decide

/-- One row of each kind, placed as the first instruction after reset. -/
theorem test_fetch_word :
    view (fun t => t.eCsum) (step (State.reset.withFetchWord 64 0x0111000000000000)) = some 0x0011 ∧
    view (fun t => t.lastStatus) (step (State.reset.withFetchWord 64 0x0200000000000000)) = some 0x01 ∧
    view (fun t => t.lastStatus) (step (State.reset.withFetchWord 64 0x104B000000000000)) = some 0x11 ∧
    view (fun t => (t.rxq, t.pend.valid)) (step (State.reset.withFetchWord 8 0x69)) = some ([], false) ∧
    view (fun t => t.host.driver.map DriverRun.cmd) (step (State.reset.withFetchWord 8 0x3F)) = some (some 0x3F) := by
  decide

/-! ## Witnesses: states and operands that meet the hypotheses of each statement -/

/-- A clean frame, V-P2. -/
def frame11 : List Byte := wireFrame 0x11 0 0 0 [] 0x00 0x11 0x80 0x00

/-- The longest frame, V-P11. -/
def frameFF : List Byte := wireFrame 0xFF 0xFF 0xFF 0xFF (List.replicate 255 0xFF) 0x01 0xFD 0x80 0x00

theorem bytes_withPbuf (bs : List Byte) (s : State) (n : Nat) (h : bs.length = n) :
    (withPbuf bs s).pbuf.bytes 0 n = some bs := h ▸ Mem.bytes_setBytes [] 0 bs

theorem bytes_withIbuf (bs : List Byte) (s : State) (n : Nat) (h : bs.length = n) :
    (withIbuf bs s).ibuf.bytes 0 n = some bs := h ▸ Mem.bytes_setBytes [] 0 bs

/-- A version record. -/
def versionRecord : Record := ⟨0x01, 0x01, 0x04, 0x00, 0, 0, 0, 0⟩

/-- A joypad record. -/
def joypadRecord : Record := ⟨0x65, 0, 0, 0, 0, 0, 0, 0⟩

theorem witness_DecodeEncodeAgree :
    Instr.WellFormed (.encode 0xFF 0xFF) ∧ Instr.WellFormed (.xfer 0xFF) ∧ Instr.WellFormed (.advance 0xFFFFFFFF) ∧
    Instr.WellFormed (.recUnknown 0xFF 0xFF 0xFF 0xFF 0xFFFFFFFF) ∧
    Instr.WellFormed (.cmdError (List.replicate 255 0xFF)) := by decide +kernel

theorem witness_EncodeDecodeAgree :
    decode (.request 0x1099000000000000) = .ok (.xfer 0x99) ∧
    decode (.record joypadRecord) = .ok (.recJoypad 0 0 0 0) ∧
    decode (.command 0x6E []) = .ok (.cmdError []) := by decide

theorem witness_StepRunsTheDecodedInstruction_request :
    hostDoes (hostAt (.request 0x1099000000000000) linked) [] (.request 0x1099000000000000) [] ∧
    (hostAt (.request 0x1099000000000000) linked).pend.valid = false ∧
    decode (.request 0x1099000000000000) = .ok (.xfer 0x99) := ⟨⟨rfl, rfl, rfl, rfl⟩, rfl, by decide⟩

theorem witness_StepRunsTheDecodedInstruction_record :
    (receiveAt versionRecord { base with lstate := .handshaking }).script = [.receive] ∧
    (receiveAt versionRecord { base with lstate := .handshaking }).rxq = [versionRecord] ∧
    (receiveAt versionRecord { base with lstate := .handshaking }).lstate = .handshaking ∧
    (receiveAt versionRecord waiting).lstate = .ready ∧ (receiveAt versionRecord waiting).pend.valid = true ∧
    decode (.record versionRecord) = .ok (.recVersion 0x01 0x04 0x00 0) := by decide

theorem witness_StepRunsTheDecodedInstruction_command :
    hostDoes (hostAt (.command 0x11 []) linked) [] (.command 0x11 []) [] ∧
    decode (.command 0x11 []) = .ok (.cmdEndSession []) := ⟨⟨rfl, rfl, rfl, rfl⟩, by decide⟩

theorem witness_IllegalRequestAnswersBadRequest :
    hostDoes (hostAt (.request 0x1099000000000001) linked) [] (.request 0x1099000000000001) [] ∧
    (hostAt (.request 0x1099000000000001) linked).pend.valid = false ∧ ¬ legalWord 0x1099000000000001 :=
  ⟨⟨rfl, rfl, rfl, rfl⟩, rfl, by unfold legalWord; decide⟩

theorem witness_PortHoldsRequestsWhileOneIsOutstanding :
    hostDoes (hostAt (.request 0) waiting) [] (.request 0) [] ∧ (hostAt (.request 0) waiting).pend.valid = true :=
  ⟨⟨rfl, rfl, rfl, rfl⟩, rfl⟩

/-- For EncodeResult, EncodeStoresTheFrameOnly and the first hypotheses of EncodeParseRoundTrip, `L` at both ends. -/
theorem witness_EncodeResult :
    base.pend.valid = false ∧ base.pbuf.bytes 0 (0x00 : Byte).toNat = some [] ∧
    (withPbuf (List.replicate 255 0xFF) base).pbuf.bytes 0 (0xFF : Byte).toNat = some (List.replicate 255 0xFF) :=
  ⟨rfl, rfl, bytes_withPbuf _ _ _ (by decide +kernel)⟩

theorem witness_EncodeStoresTheFrameOnly :
    ∃ t, exec (.encode 0x11 0x00) base = .next t ∧ t.obuf.byte 7 = some 0x11 := exists_next (by decide)

theorem witness_EncoderChecksumNeverWraps :
    (List.replicate 255 0xFF : List Byte).length = (0xFF : Byte).toNat ∧ ([] : List Byte).length = (0x00 : Byte).toNat := by
  decide +kernel

theorem witness_UnwrittenReadsFault_payload :
    (withPbuf [0x01] base).pend.valid = false ∧ 1 < (2 : Byte).toNat ∧ (withPbuf [0x01] base).pbuf.byte 1 = none := by
  decide

/-- The two bytes of the marker, each missing. -/
theorem witness_UnwrittenReadsFault_magic :
    base.pend.valid = false ∧ (2 : Half).toNat ≤ base.params.ibufSize ∧ (0 : Half).toNat + 2 ≤ (2 : Half).toNat ∧
    base.ibuf.byte (0 : Half).toNat = none ∧ (withIbuf [0x99] base).ibuf.byte ((0 : Half).toNat + 1) = none := by decide

theorem witness_UnwrittenReadsFault_length :
    (withIbuf [0x99, 0x66] base).pend.valid = false ∧ (6 : Half).toNat ≤ (withIbuf [0x99, 0x66] base).params.ibufSize ∧
    (0 : Half).toNat + 6 ≤ (6 : Half).toNat ∧ (withIbuf [0x99, 0x66] base).ibuf.byte (0 : Half).toNat = some 0x99 ∧
    (withIbuf [0x99, 0x66] base).ibuf.byte ((0 : Half).toNat + 1) = some 0x66 ∧
    (withIbuf [0x99, 0x66] base).ibuf.byte ((0 : Half).toNat + 5) = none := by decide

/-- The last byte of the frame is missing. -/
theorem witness_UnwrittenReadsFault_frame :
    (withIbuf (frame11.take 9) base).pend.valid = false ∧
    (10 : Half).toNat ≤ (withIbuf (frame11.take 9) base).params.ibufSize ∧
    (withIbuf (frame11.take 9) base).ibuf.byte (0 : Half).toNat = some 0x99 ∧
    (withIbuf (frame11.take 9) base).ibuf.byte ((0 : Half).toNat + 1) = some 0x66 ∧
    (withIbuf (frame11.take 9) base).ibuf.byte ((0 : Half).toNat + 5) = some 0x00 ∧
    (0 : Half).toNat + 10 + (0x00 : Byte).toNat ≤ (10 : Half).toNat ∧ (0 : Half).toNat + 2 ≤ 9 ∧
    9 < (0 : Half).toNat + 10 + (0x00 : Byte).toNat ∧ (withIbuf (frame11.take 9) base).ibuf.byte 9 = none := by decide

/-- A frame that ends exactly at `n`, at both ends of `L`; for ParseMatchedFrame and EncodeParseRoundTrip. -/
theorem witness_ParseMatchedFrame :
    ((withIbuf frame11 base).pend.valid = false ∧ (10 : Half).toNat ≤ (withIbuf frame11 base).params.ibufSize ∧
      (0 : Half).toNat + 10 + (0x00 : Byte).toNat ≤ (10 : Half).toNat ∧ ([] : List Byte).length = (0x00 : Byte).toNat ∧
      (withIbuf frame11 base).ibuf.bytes (0 : Half).toNat (10 + (0x00 : Byte).toNat) = some frame11) ∧
    ((withIbuf frameFF base).pend.valid = false ∧ (265 : Half).toNat ≤ (withIbuf frameFF base).params.ibufSize ∧
      0 + 10 + (0xFF : Byte).toNat ≤ (265 : Half).toNat ∧
      (List.replicate 255 0xFF : List Byte).length = (0xFF : Byte).toNat ∧
      (withIbuf frameFF base).ibuf.bytes 0 (10 + (0xFF : Byte).toNat) = some frameFF) :=
  ⟨by decide, rfl, by decide, by decide, by decide +kernel, bytes_withIbuf _ _ _ (by decide +kernel)⟩

theorem witness_ParseChecksItsBounds :
    base.pend.valid = false ∧ (301 : Half).toNat > base.params.ibufSize ∧ (11 : Half).toNat > (10 : Half).toNat := by
  decide

theorem witness_ParseDetectsTheMagic :
    (base.pend.valid = false ∧ (10 : Half).toNat ≤ base.params.ibufSize ∧ (9 : Half).toNat ≤ (10 : Half).toNat ∧
      (9 : Half).toNat + 2 > (10 : Half).toNat) ∧
    ((withIbuf [0x99, 0x67] base).pend.valid = false ∧ (2 : Half).toNat ≤ (withIbuf [0x99, 0x67] base).params.ibufSize ∧
      (0 : Half).toNat ≤ (2 : Half).toNat ∧ (0 : Half).toNat + 2 ≤ (2 : Half).toNat ∧
      (withIbuf [0x99, 0x67] base).ibuf.byte (0 : Half).toNat = some 0x99 ∧
      (withIbuf [0x99, 0x67] base).ibuf.byte ((0 : Half).toNat + 1) = some 0x67 ∧
      ¬ ((0x99 : Byte) = 0x99 ∧ (0x67 : Byte) = 0x66)) := by decide

theorem witness_ParseIncompleteFrame :
    ((withIbuf frame11 base).pend.valid = false ∧ (withIbuf frame11 base).ibuf.byte 0 = some 0x99 ∧
      (withIbuf frame11 base).ibuf.byte 1 = some 0x66) ∧
    ((0 : Half).toNat + 2 ≤ (5 : Half).toNat ∧ (0 : Half).toNat + 6 > (5 : Half).toNat) ∧
    ((0 : Half).toNat + 6 ≤ (9 : Half).toNat ∧ (withIbuf frame11 base).ibuf.byte 5 = some 0x00 ∧
      (0 : Half).toNat + 10 + (0x00 : Byte).toNat > (9 : Half).toNat) := by decide

/-- For ParseChangesOnlyItsRegisters, CodecIsIdempotent and CodecIgnoresTheLink: a match and a non-match. -/
theorem witness_ParseChangesOnlyItsRegisters :
    (∃ t, exec (.parse 0 10) (withIbuf frame11 base) = .next t ∧ t.respHist = [.ok]) ∧
    ∃ t, exec (.parse 1 10) (withIbuf frame11 base) = .next t ∧ t.respHist = [.noMatch] :=
  ⟨exists_next (by decide), exists_next (by decide)⟩

theorem witness_CodecIsIdempotent :
    ∃ t, exec (.encode 0x11 0x00) base = .next t ∧ t.respHist = [.ok] := exists_next (by decide)

theorem witness_CodecIgnoresTheLink : exec (.encode 0x11 0x01) base = .fault .unwrittenRead := rfl

theorem witness_EncodeParseRoundTrip_bare :
    (withIbuf (frame11.take 8) base).pend.valid = false ∧ (8 : Half).toNat = (0 : Half).toNat + 8 + (0x00 : Byte).toNat ∧
    (withIbuf (frame11.take 8) base).ibuf.bytes (0 : Half).toNat (8 + (0x00 : Byte).toNat) = some (frame11.take 8) := by
  decide

/-- A frame with three payload bytes (V-E5's payload), both trailer bytes added. -/
def frameAbc : List Byte := [0x99, 0x66, 0x28, 0x00, 0x00, 0x03, 0x61, 0x2E, 0x62, 0x01, 0x1C, 0x80, 0x00]

/-- The flipped byte at the first and last places of each clause: the command, the reserved bytes, the first and the
last payload byte and the two checksum bytes. -/
theorem witness_FlippedBitButOfLengthIsReported :
    ∃ t, exec (.parse 0 13) (withIbuf frameAbc base) = .next t ∧ (t.respHist = base.respHist ++ [.ok] ∧
      t.parse.find.getLsbD 0 = false ∧ (withIbuf frameAbc base).ibuf.byte 2 = some 0x28 ∧
      (withIbuf frameAbc base).ibuf.byte 3 = some 0x00 ∧ (withIbuf frameAbc base).ibuf.byte 4 = some 0x00 ∧
      (withIbuf frameAbc base).ibuf.byte 6 = some 0x61 ∧ (withIbuf frameAbc base).ibuf.byte 8 = some 0x62 ∧
      (withIbuf frameAbc base).ibuf.byte 9 = some 0x01 ∧ (withIbuf frameAbc base).ibuf.byte 10 = some 0x1C ∧
      10 < 0 + 8 + t.parse.len.toNat) := exists_next (by decide)

theorem witness_FlippedTrailerOrMagicBit :
    ∃ t, exec (.parse 0 10) (withIbuf frame11 base) = .next t ∧ (t.respHist = base.respHist ++ [.ok] ∧
      8 = 0 + 8 + t.parse.len.toNat ∧ (withIbuf frame11 base).ibuf.byte 8 = some 0x80 ∧
      (withIbuf frame11 base).ibuf.byte 9 = some 0x00 ∧ (withIbuf frame11 base).ibuf.byte 0 = some 0x99 ∧
      (withIbuf frame11 base).ibuf.byte 1 = some 0x66) := exists_next (by decide)

/-- For XferStartSendsTheRequest and AdvanceSendsTheNewTime. -/
theorem witness_XferStartSendsTheRequest : linked.pend.valid = false ∧ linked.lstate = .ready := ⟨rfl, rfl⟩

theorem witness_AdvanceSendsTheNewTime : linked.pend.valid = false ∧ linked.lstate = .ready := ⟨rfl, rfl⟩

theorem witness_LinkRequestsNeedReady :
    [LinkState.listening, .handshaking, .failed, .closed].all (fun l =>
      decide (({ base with lstate := l } : State).pend.valid = false ∧ ({ base with lstate := l } : State).lstate ≠ .ready))
      = true := by decide

/-- V-T6 crosses one boundary; both orders of the clause have a witness. -/
theorem witness_TimestampFormulaAndOrder :
    ((0x7FFFFFF0 : DWord) ≤ 0x80000005 ∧
      ((0x7FFFFFF0 : DWord).toNat + (0 : DWord).toNat) / 2 ^ 31 + 1 =
        ((0x80000005 : DWord).toNat + (0 : DWord).toNat) / 2 ^ 31 ∧
      (0x80000005 : DWord).toNat - (0x7FFFFFF0 : DWord).toNat < 2 ^ 31) ∧
    ((0 : DWord) ≤ 0x7FFFFFFF ∧
      ((0 : DWord).toNat + (0 : DWord).toNat) / 2 ^ 31 = ((0x7FFFFFFF : DWord).toNat + (0 : DWord).toNat) / 2 ^ 31) := by
  decide

theorem witness_ZeroAdvanceKeepsXferBytes :
    linked.pend.valid = false ∧ linked.lstate = .ready ∧ ∃ t, exec .tsync linked = .next t ∧ t.lastStatus = 0x00 :=
  ⟨rfl, rfl, exists_next (by decide)⟩

theorem witness_HandshakeEchoesOrFails :
    ((receiveAt versionRecord { base with lstate := .handshaking }).script = [.receive] ∧
      (receiveAt versionRecord { base with lstate := .handshaking }).rxq = [versionRecord]) ∧
    ((receiveAt joypadRecord { base with lstate := .handshaking }).rxq = [joypadRecord] ∧ joypadRecord.code ≠ 0x01) ∧
    ((receiveAt versionRecord { base with lstate := .failed }).script = [.receive] ∧
      (receiveAt versionRecord { base with lstate := .failed }).lstate = .failed) := by decide

/-- For ReplyCompletesTheXfer, InformationalRecordsAreDropped, UnexpectedRecordsAreLogged, UnknownRecordsAreLogged. -/
theorem witness_ReplyCompletesTheXfer : waiting.lstate = .ready ∧ waiting.pend.valid = true := ⟨rfl, rfl⟩

theorem witness_InformationalRecordsAreDropped : waiting.lstate = .ready ∧ waiting.pend.valid = true := ⟨rfl, rfl⟩

theorem witness_UnexpectedRecordsAreLogged : waiting.lstate = .ready ∧ waiting.pend.valid = true := ⟨rfl, rfl⟩

theorem witness_UnknownRecordsAreLogged :
    (⟨0x6E, 0, 0, 0, 0, 0, 0, 0⟩ : Record).code ∉ [(0x01 : Byte), 0x65, 0x68, 0x69, 0x6A, 0x6C, 0x6D] ∧
    waiting.lstate = .ready ∧ waiting.pend.valid = true := by decide

theorem witness_QueueWaitsWhereNothingIsProcessed :
    ((receiveAt joypadRecord linked).script = [.receive] ∧ (receiveAt joypadRecord linked).lstate ≠ .handshaking ∧
      ¬ ((receiveAt joypadRecord linked).lstate = .ready ∧ (receiveAt joypadRecord linked).pend.valid = true)) ∧
    (({ waiting with script := [.receive] } : State).script = [.receive] ∧
      ({ waiting with script := [.receive] } : State).rxq = []) := by decide

theorem witness_PeerConnectsAndPushes :
    ((peerAt .connect base).script = [.peer] ∧ (peerAt .connect base).peer = [.connect] ∧
      (peerAt .connect base).lstate = .listening ∧ (peerAt .connect linked).lstate ≠ .listening) ∧
    ((peerAt (.push joypadRecord) linked).peer = [.push joypadRecord] ∧
      (peerAt (.push joypadRecord) linked).rxq.length < (peerAt (.push joypadRecord) linked).params.rxqDepth ∧
      ¬ ({ linked with rxq := [joypadRecord, joypadRecord] } : State).rxq.length < linked.params.rxqDepth) := by decide

theorem witness_PeerLossClosesTheLink :
    ((peerAt .lost base).script = [.peer] ∧ (peerAt .lost base).peer = [.lost] ∧ base.lstate ≠ .handshaking ∧
      base.lstate ≠ .ready) ∧
    (linked.lstate = .ready ∧ linked.pend.valid = false) ∧ (waiting.lstate = .ready ∧ waiting.pend.valid = true) := by
  decide

/-- The timeout is due at exactly `XFER_TIMEOUT` ticks, and not one tick sooner. -/
theorem witness_XferTimeoutClosesTheLink :
    (({ waiting with script := [.timeout] } : State).script = [.timeout] ∧ waiting.lstate = .ready ∧
      waiting.pend.valid = true ∧ waiting.params.xferTimeout = none) ∧
    ({ prm with xferTimeout := some 0x100 } : Params).xferTimeout = some 0x100 ∧
    ((0x123556 : DWord).toNat : Int) - waiting.pend.t0.toNat ≥ (0x100 : Nat) ∧
    ¬ ((0x123555 : DWord).toNat : Int) - waiting.pend.t0.toNat ≥ (0x100 : Nat) := by decide

theorem witness_ResetTurnClearsTheBlock :
    ({ waiting with script := [.reset] } : State).script = [.reset] := rfl

theorem witness_ReadPortMap :
    hostDoes (hostAt (.readReg 0x14) waiting) [] (.readReg 0x14) [] ∧ 0x14 < (0x15 : Byte).toNat :=
  ⟨⟨rfl, rfl, rfl, rfl⟩, by decide⟩

/-- A step that moves `LSTATE`, for LinkMovesOnlyAsListed. -/
theorem witness_LinkMovesOnlyAsListed :
    (∃ t, step (peerAt .connect base) = .next t ∧ t.lstate = .handshaking) ∧
    (peerAt .connect base).script.head? ≠ some .reset := ⟨exists_next (by decide), by decide⟩

theorem witness_StepKeepsTheInvariant :
    State.Inv waiting ∧ ∃ t, step (receiveAt ⟨0x69, 0xD2, 0, 0, 0, 0, 0, 0⟩ waiting) = .next t ∧ t.respHist = [.ok] :=
  ⟨by decide, exists_next (by decide)⟩

theorem witness_StepKeepsParametersAndClock :
    ∃ t, step { linked with script := [.tick 0xFFFFFFFFFFFFFFFF] } = .next t ∧ t.clock = 0xFFFFFFFFFFFFFFFF :=
  exists_next (by decide)

theorem witness_OnlyAdvanceMovesTimeOffset :
    (∃ t, step (hostAt (.request 0x1100000000000001) linked) = .next t ∧ t.timeOffset ≠ linked.timeOffset) ∧
    (hostAt (.request 0x1100000000000001) linked).script.head? ≠ some .reset := ⟨exists_next (by decide), by decide⟩

theorem witness_StreamsGrowByOneEntry :
    (∃ t, step (peerAt .lost waiting) = .next t ∧ (t.logHist.length = 1 ∧ t.respHist.length = 1)) ∧
    (peerAt .lost waiting).script.head? ≠ some .reset := ⟨exists_next (by decide), by decide⟩

theorem witness_ResultRegistersHaveOneWriter :
    (∃ t, step (hostAt (.request 0x020000000000000A) (withIbuf frame11 base)) = .next t ∧ t.parse ≠ base.parse) ∧
    (∃ t, step (hostAt (.request 0x0111000000000000) base) = .next t ∧ t.eLen ≠ base.eLen) ∧
    (∃ t, step (receiveAt ⟨0x69, 0xD2, 0, 0, 0, 0, 0, 0⟩ waiting) = .next t ∧ t.xRx ≠ waiting.xRx) ∧
    (∃ t, step (hostAt (.request 0x1099000000000000) linked) = .next t ∧ t.xTs ≠ linked.xTs) :=
  ⟨exists_next (by decide), exists_next (by decide), exists_next (by decide), exists_next (by decide)⟩

theorem witness_PendingXferOutlastsASilentPeer :
    (∃ t, step (receiveAt joypadRecord waiting) = .next t ∧ t.rxq = []) ∧ waiting.lstate = .ready ∧
    waiting.pend.valid = true ∧ waiting.params.xferTimeout = none ∧
    (receiveAt joypadRecord waiting).rxq.head? = some joypadRecord ∧ joypadRecord.code ≠ 0x69 ∧
    (receiveAt joypadRecord waiting).script.head? = some .receive := ⟨exists_next (by decide), by decide⟩

/-- The last byte of each buffer is inside, the next is past the end. -/
theorem witness_HostBufferWrites :
    hostDoes (hostAt (.writePbuf 255 [0xAA]) linked) [] (.writePbuf 255 [0xAA]) [] ∧
    hostDoes (hostAt (.writeIbuf 299 [0xAA]) linked) [] (.writeIbuf 299 [0xAA]) [] ∧
    (linked.pend.valid = false ∧ 255 + [(0xAA : Byte)].length ≤ 256 ∧ 256 + [(0xAA : Byte)].length > 256 ∧
      299 + [(0xAA : Byte)].length ≤ linked.params.ibufSize ∧ 300 + [(0xAA : Byte)].length > linked.params.ibufSize) ∧
    waiting.pend.valid = true := ⟨⟨rfl, rfl, rfl, rfl⟩, ⟨rfl, rfl, rfl, rfl⟩, by decide, rfl⟩

theorem witness_CommandStartsTheDriver :
    ((List.replicate 255 0 : List Byte).length ≤ 255 ∧ base.host.driver = none ∧ base.host.scan = none) ∧
    (driving (calling .tsync false) base).host.driver ≠ none ∧ 255 < long.length := by decide +kernel

/-- Each phase, with the port ready, and one with the port busy. -/
theorem witness_DriverIssuesItsRequests :
    [DriverPhase.tsync, .load, .encode, .eoc, .pad, .magic1, .magic2, .header, .body, .csumHi, .csumLo, .confirmEoc].all
      (fun p => decide ((driving (calling p false) linked).script = [.host] ∧
        (driving (calling p false) linked).host.driver = some (calling p false) ∧ (calling p false).waiting = false ∧
        (calling p false).payload.length ≤ 255 ∧ linked.pend.valid = false)) = true ∧
    (driving (calling .eoc false) waiting).pend.valid = true := by decide

theorem witness_DriverIssuesItsRequests_frame :
    ({ linked with obuf := Mem.setBytes [] 0 (frame11.take 8) } : State).obuf.byte 7 = some 0x11 ∧
    (calling (.frame 7) false).waiting = false := by decide

theorem witness_DriverIssuesItsRequests_confirm :
    ({ calling .confirm false with header := [0x11, 0, 0, 0] } : DriverRun).header[0]? = some 0x11 := rfl

/-- A call at the last byte of the frame, one before it, one in another phase, and one whose request failed. -/
theorem witness_DriverPushesTheFrame :
    driverTakes (driving (calling (.frame 7) true) { linked with response := some .ok }) [] (calling (.frame 7) true) .ok ∧
    driverTakes (driving (calling (.frame 6) true) { linked with response := some .ok }) [] (calling (.frame 6) true) .ok ∧
    driverTakes (driving (calling .tsync true) { linked with response := some .ok }) [] (calling .tsync true) .ok ∧
    driverTakes (driving (calling .encode true) { linked with response := some .ok }) [] (calling .encode true) .ok ∧
    driverTakes (driving (calling .pad true) { linked with response := some .timeout }) [] (calling .pad true) .timeout ∧
    Status.timeout ≠ .ok :=
  ⟨⟨rfl, rfl, rfl, rfl⟩, ⟨rfl, rfl, rfl, rfl⟩, ⟨rfl, rfl, rfl, rfl⟩, ⟨rfl, rfl, rfl, rfl⟩, ⟨rfl, rfl, rfl, rfl⟩, by decide⟩

/-- `0x91` is the acknowledgement of command 0x11. -/
theorem witness_DriverTakesTheAcknowledgement :
    driverTakes (driving (calling .eoc true) { linked with response := some .ok }) [] (calling .eoc true) .ok ∧
    driverTakes (driving (calling .pad true) { linked with response := some .ok }) [] (calling .pad true) .ok ∧
    (0x91 : Byte) = (calling .pad true).cmd ^^^ 0x80 ∧ (0x00 : Byte) ≠ (calling .pad true).cmd ^^^ 0x80 ∧
    linked.host.session.transferNoResponse = false ∧ (⟨none, none, true⟩ : Session).transferNoResponse = true :=
  ⟨⟨rfl, rfl, rfl, rfl⟩, ⟨rfl, rfl, rfl, rfl⟩, by decide⟩

theorem witness_DriverPullsTheReply :
    [DriverPhase.magic1, .magic2, .header, .body, .csumHi, .csumLo].all (fun p =>
      decide ((driving (calling p true) { linked with response := some .ok }).script = [.host] ∧
        (driving (calling p true) { linked with response := some .ok }).host.driver = some (calling p true) ∧
        (calling p true).waiting = true)) = true ∧
    (calling .header true).header.length < 3 ∧
    ({ calling .header true with header := [0x11, 0, 0] } : DriverRun).header.length = 3 ∧
    ({ calling .body true with header := [0x11, 0, 0, 2] } : DriverRun).header[3]? = some 2 := by decide

theorem witness_DriverConfirmsAndReturns :
    driverTakes (driving (calling .confirmEoc true) { linked with response := some .ok }) [] (calling .confirmEoc true) .ok ∧
    driverTakes (driving { calling .confirm true with header := [0x11, 0, 0, 0] } { linked with response := some .ok }) []
      { calling .confirm true with header := [0x11, 0, 0, 0] } .ok ∧
    ({ calling .confirm true with header := [0x11, 0, 0, 0] } : DriverRun).header[0]? = some 0x11 :=
  ⟨⟨rfl, rfl, rfl, rfl⟩, ⟨rfl, rfl, rfl, rfl⟩, rfl⟩

/-- A scan at a magic of `A`, and one at the last index. -/
def tinyScan (i : Nat) (phase : ScanPhase) : ScanRun := ⟨[(0x99, 0xD2), (0x66, 0xD2)], i, none, none, [], phase⟩

theorem witness_ScanSeeksTheMagic :
    scanTakes (scanning (tinyScan 0 .seek) linked) [] (tinyScan 0 .seek) ∧
    ((true : Bool) = true ↔ (tinyScan 0 .seek).i + 1 < (tinyScan 0 .seek).trace.length ∧
      ((tinyScan 0 .seek).trace.map Prod.fst)[(tinyScan 0 .seek).i]? = some 0x99 ∧
      ((tinyScan 0 .seek).trace.map Prod.fst)[(tinyScan 0 .seek).i + 1]? = some 0x66) ∧
    ((false : Bool) = true ↔ (tinyScan 0 .seek).i + 1 < (tinyScan 0 .seek).trace.length ∧
      ((tinyScan 0 .seek).trace.map Prod.snd)[(tinyScan 0 .seek).i]? = some 0x99 ∧
      ((tinyScan 0 .seek).trace.map Prod.snd)[(tinyScan 0 .seek).i + 1]? = some 0x66) ∧
    scanTakes (scanning (tinyScan 2 .seek) linked) [] (tinyScan 2 .seek) ∧
    ¬ (tinyScan 2 .seek).i < (tinyScan 2 .seek).trace.length :=
  ⟨⟨rfl, rfl, rfl⟩, by decide, by decide, ⟨rfl, rfl, rfl⟩, by decide⟩

/-- The two phases between: the window is written with the port ready, the PARSE is issued or held; the window is
the two bytes that remain, or the one at the last index. -/
theorem witness_ScanSeeksTheMagic_window :
    scanTakes (scanning (tinyScan 0 (.load .a)) linked) [] (tinyScan 0 (.load .a)) ∧
    scanTakes (scanning (tinyScan 1 (.load .b)) waiting) [] (tinyScan 1 (.load .b)) ∧
    scanTakes (scanning (tinyScan 0 (.issue .a)) linked) [] (tinyScan 0 (.issue .a)) ∧
    scanTakes (scanning (tinyScan 1 (.issue .b)) waiting) [] (tinyScan 1 (.issue .b)) ∧
    linked.pend.valid = false ∧ waiting.pend.valid = true ∧
    (2 : Half).toNat = min ((tinyScan 0 (.issue .a)).trace.length - (tinyScan 0 (.issue .a)).i) linked.params.ibufSize ∧
    (1 : Half).toNat = min ((tinyScan 1 (.issue .a)).trace.length - (tinyScan 1 (.issue .a)).i) linked.params.ibufSize :=
  ⟨⟨rfl, rfl, rfl⟩, ⟨rfl, rfl, rfl⟩, ⟨rfl, rfl, rfl⟩, ⟨rfl, rfl, rfl⟩, by decide⟩

/-- A scan over the frame V-P2 in either direction. -/
def frameScan (sender : Sender) : ScanRun :=
  ⟨(if sender = .a then frame11.zip (List.replicate 10 0xD2) else (List.replicate 10 0xD2).zip frame11), 0, none, none,
    [], .report sender⟩

theorem witness_ScanReportsTheFrame :
    scanTakes (scanning (frameScan .a) { linked with response := some .ok }) [] (frameScan .a) ∧
    scanTakes (scanning (frameScan .b) { linked with response := some .incomplete }) [] (frameScan .b) ∧
    (frameScan .a).phase = .report .a ∧ (frameScan .b).phase = .report .b ∧
    ((frameScan .a).trace.map Prod.snd)[(frameScan .a).i + 9 + (0x00 : Byte).toNat]? = some 0xD2 ∧
    ((frameScan .b).trace.map Prod.fst)[(frameScan .b).i + 9 + (0x00 : Byte).toNat]? = some 0xD2 :=
  ⟨⟨rfl, rfl, rfl⟩, ⟨rfl, rfl, rfl⟩, rfl, rfl, by decide, by decide⟩

theorem witness_ScanWindowDecidesLikeTheTrace :
    265 ≤ base.params.ibufSize ∧ 9 < frame11.length ∧ frame11.length ≤ 10 := by decide

/-- The largest tick count that fits, and the smallest that does not. -/
theorem witness_HostAdvancesBySeconds :
    hostDoes (hostAt (.advanceTime 4294967295 2097151) linked) [] (.advanceTime 4294967295 2097151) [] ∧
    hostDoes (hostAt (.advanceTime 2048 0) linked) [] (.advanceTime 2048 0) [] ∧
    hostDoes (hostAt (.advanceTime 1 0) waiting) [] (.advanceTime 1 0) [] ∧
    linked.pend.valid = false ∧ waiting.pend.valid = true ∧
    (0xFFFFFFFF : Word).toNat = 4294967295 * linked.params.tsRes / (2097151 + 1) ∧
    2 ^ 32 = 2048 * linked.params.tsRes / (0 + 1) :=
  ⟨⟨rfl, rfl, rfl, rfl⟩, ⟨rfl, rfl, rfl, rfl⟩, ⟨rfl, rfl, rfl, rfl⟩, by decide⟩

/-- The record of a reply. -/
def replyRecord : Record := ⟨0x69, 0xD2, 0x80, 0, 0, 0, 0, 0⟩

/-- `waiting`, its request issued at clock 0xFF, with a timeout after so many ticks. -/
def timed (limit : Nat) : State :=
  { waiting with params := { prm with xferTimeout := some limit }, pend := ⟨true, 0x10, 0x123456, 0xFF⟩ }

/-- A pending XFER with each way to respond; the timeout at the last value the clock has. -/
theorem witness_RunEndsOrHangsForGood_running :
    waiting.lstate = .ready ∧ waiting.pend.valid = true ∧ replyRecord.code = 0x69 ∧
    replyRecord ∈ (receiveAt replyRecord waiting).rxq ∧ (peerAt .lost waiting).peer.head? = some .lost ∧
    (peerAt (.push replyRecord) waiting).peer.head? = some (.push replyRecord) ∧
    (timed (2 ^ 64 - 1 - 0xFF)).params.xferTimeout = some (2 ^ 64 - 1 - 0xFF) ∧
    (timed (2 ^ 64 - 1 - 0xFF)).pend.t0.toNat + (2 ^ 64 - 1 - 0xFF) < 2 ^ 64 := by decide

/-- A state that has ended, with turns of the peer left, and one that hangs, with turns of the clock left. -/
theorem witness_RunEndsOrHangsForGood_stays :
    (runStatus (peerAt .connect base) = .ended ∧ (peerAt .connect base).script.head? ≠ some .reset ∧
      ∃ t, step (peerAt .connect base) = .next t ∧ t.lstate = .handshaking) ∧
    (State.Inv waiting ∧ runStatus { waiting with script := [.tick 0x200000] } = .hung ∧
      ({ waiting with script := [.tick 0x200000] } : State).script.head? ≠ some .reset ∧
      ∃ t, step { waiting with script := [.tick 0x200000] } = .next t ∧ t.clock = 0x200000) :=
  ⟨⟨by decide, by decide, exists_next (by decide)⟩, by decide, by decide, by decide, exists_next (by decide)⟩

end Sys2Proof.Tests
end

section
/-! The family of 00_scope.md: what a step runs, what every step leaves alone, and the invariant that every step
keeps. -/

namespace Sys2Proof.Machine

open Sys2Proof.Claims

/-! ## The turns of the host and of the core on a record -/

theorem step_host {s : State} {rest : List Turn} (h : s.script = .host :: rest) :
    step s = hostTurn { s with script := rest } := by
  simp [step, h]

theorem step_receive {s : State} {rest : List Turn} (h : s.script = .receive :: rest) :
    step s = receiveTurn { s with script := rest } := by
  simp [step, h]

/-- A free host takes the next step of its program, and `hostDone` is the state in which it has moved past it. -/
theorem step_hostDoes {s : State} {rest : List Turn} {op : HostOp} {ops : List HostOp} (h : hostDoes s rest op ops) :
    step s = hostOp op { s with script := rest } (hostDone ops rest s) := by
  obtain ⟨hscript, hdriver, hscan, hqueue⟩ := h
  simp [step_host hscript, hostTurn, hdriver, hscan, hqueue, popHost, hostDone]

/-- A request word that decodes runs its instruction when a free host offers it to a ready port. -/
theorem step_request {s : State} {rest : List Turn} {q : DWord} {ops : List HostOp} {i : Instr}
    (h : hostDoes s rest (.request q) ops) (hready : s.pend.valid = false) (hi : decode (.request q) = .ok i) :
    step s = exec i (hostDone ops rest s) := by
  rw [step_hostDoes h]
  simp [hostOp, offerRequest, issueRequest, hready, hi]

/-- A command that decodes runs its instruction when a free host calls it. -/
theorem step_command {s : State} {rest : List Turn} {id : Byte} {p : List Byte} {ops : List HostOp} {i : Instr}
    (h : hostDoes s rest (.command id p) ops) (hi : decode (.command id p) = .ok i) :
    step s = exec i (hostDone ops rest s) := by
  rw [step_hostDoes h]
  simp [hostOp, hi]

/-- Where R167 lets the core process records: HANDSHAKING, and READY with an XFER pending. -/
theorem receiving_iff {s : State} :
    receiving s = true ↔ s.lstate = .handshaking ∨ (s.lstate = .ready ∧ s.pend.valid = true) := by
  cases h : s.lstate <;> simp [receiving, h]

/-- The core runs the instruction of the record at the head of the queue where it processes records. -/
theorem receiveTurn_head {s : State} {r : Record} {rs : List Record} (hr : receiving s = true) (hq : s.rxq = r :: rs) :
    receiveTurn s = exec (decodeRecord r) s := by
  simp [receiveTurn, hr, hq]

theorem step_record {s : State} {rest : List Turn} {r : Record} {rs : List Record}
    (h : s.script = .receive :: rest) (hq : s.rxq = r :: rs) (hr : receiving s = true) :
    step s = exec (decodeRecord r) { s with script := rest } := by
  rw [step_receive h]
  exact receiveTurn_head (s := { s with script := rest }) hr hq

/-- Settles O5: the three places an instruction comes from, one lemma each. -/
theorem stepRunsTheDecodedInstruction : Obligations.StepRunsTheDecodedInstruction := by
  refine ⟨?request, ?record, ?command⟩
  case request => exact fun _ _ _ _ _ h hready hi => step_request h hready hi
  case record =>
    intro s rest r rs i h hq hr hi
    cases hi
    exact step_record h hq (receiving_iff.2 hr)
  case command => exact fun _ _ _ _ _ _ h hi => step_command h hi

/-! ## Parameters and wall clock -/

/-- The parameters stay as they are and the wall clock does not go back. -/
def KeepsParamsAndClock (s t : State) : Prop := t.params = s.params ∧ s.clock ≤ t.clock

/-- The way every turn but the clock's own keeps them: neither is touched. -/
theorem KeepsParamsAndClock.of_eq {s t : State} (hp : t.params = s.params) (hc : t.clock = s.clock) :
    KeepsParamsAndClock s t := ⟨hp, by rw [hc]; exact BitVec.le_refl _⟩

theorem RequestEffect.keepsParamsAndClock {s t : State} (e : RequestEffect s t) : KeepsParamsAndClock s t := by
  cases e <;> exact .of_eq rfl rfl

theorem HostEffect.keepsParamsAndClock {s t : State} (e : HostEffect s t) : KeepsParamsAndClock s t := by
  cases e with
  | request _ _ _ _ e => exact e.keepsParamsAndClock
  | layer | wrotePbuf | wroteIbuf => exact .of_eq rfl rfl

theorem ReceiveEffect.keepsParamsAndClock {s t : State} (e : ReceiveEffect s t) : KeepsParamsAndClock s t := by
  cases e <;> exact .of_eq rfl rfl

theorem peerTurn_keepsParamsAndClock (s : State) : KeepsParamsAndClock s (peerTurn s) := by
  rcases peerTurn_cases s with h | ⟨op, rest, -, h⟩
  · rw [h]; exact .of_eq rfl rfl
  · rcases peerStep_some h with ⟨-, -, h⟩ | ⟨r, -, -, -, h⟩ | ⟨-, -, -, h⟩ | ⟨-, -, -, h⟩ <;>
      rw [h] <;> exact .of_eq rfl rfl

theorem tick_keepsParamsAndClock (c : DWord) (s : State) : KeepsParamsAndClock s (tick c s) := by
  rcases tick_cases c s with ⟨hle, h⟩ | ⟨-, h⟩ <;> rw [h]
  · exact ⟨rfl, hle⟩
  · exact .of_eq rfl rfl

theorem timeoutStep_keepsParamsAndClock (s : State) : KeepsParamsAndClock s (timeoutStep s) := by
  rcases timeoutStep_cases s with h | ⟨limit, -, -, -, -, h⟩ <;> rw [h] <;> exact .of_eq rfl rfl

theorem StepEffect.keepsParamsAndClock {s t : State} (e : StepEffect s t) : KeepsParamsAndClock s t := by
  cases e with
  | idle => exact .of_eq rfl rfl
  | host _ _ _ e => exact e.keepsParamsAndClock
  | peer rest => exact peerTurn_keepsParamsAndClock { s with script := rest }
  | tick rest c => exact tick_keepsParamsAndClock c { s with script := rest }
  | receive _ _ _ e => exact e.keepsParamsAndClock
  | timeout rest => exact timeoutStep_keepsParamsAndClock { s with script := rest }
  | reset => exact .of_eq rfl rfl

/-- Settles O43, turn by turn: only the wall clock's own turn moves the clock, and it moves it forward. -/
theorem stepKeepsParametersAndClock : Obligations.StepKeepsParametersAndClock :=
  fun _ _ h => (step_next h).keepsParamsAndClock

/-! ## The invariant

Its clauses read only some of the fields, so an update of the other fields (the host layer, the streams, the schedule)
keeps it by definition. -/

/-- With no XFER pending nothing is asked of the slot. -/
theorem State.PendKept.of_not_pending {s : State} (h : s.pend.valid = false) : s.PendKept :=
  fun hv => absurd hv (by simp [h])

theorem accept_inv {s : State} (h : s.Inv) : (accept s).Inv := by
  obtain ⟨hparams, hbuf, hpend, hqueue, hfind, hstatus⟩ := h
  refine ⟨hparams, hbuf, fun hv => ?_, hqueue, hfind, hstatus⟩
  obtain ⟨hl, -, hts, ht0⟩ := hpend hv
  exact ⟨hl, rfl, hts, ht0⟩

/-- The last entry of the response history is the status just given. -/
theorem respond_statusKept (st : Status) (s : State) : (respond st s).StatusKept := by
  simp [State.StatusKept]

/-- A response may stand once no XFER is pending. -/
theorem respond_inv {s : State} (st : Status) (h : s.Inv) (hv : s.pend.valid = false) : (respond st s).Inv := by
  obtain ⟨hparams, hbuf, -, hqueue, hfind, -⟩ := h
  exact ⟨hparams, hbuf, .of_not_pending hv, hqueue, hfind, respond_statusKept st s⟩

/-- Emptying the pending-byte slot. -/
theorem inv_of_freed {s : State} (h : s.Inv) : State.Inv { s with pend := { s.pend with valid := false } } := by
  obtain ⟨hparams, hbuf, -, hqueue, hfind, hstatus⟩ := h
  exact ⟨hparams, hbuf, .of_not_pending rfl, hqueue, hfind, hstatus⟩

/-! ### The buffers -/

theorem encodedFrame_length (cmd len : Byte) (payload : List Byte) :
    (encodedFrame cmd len payload).length = 8 + payload.length := by
  simp [encodedFrame, magic]; omega

theorem inv_of_wrotePbuf {s : State} (h : s.Inv) {i : Nat} {bs : List Byte} (hi : i + bs.length ≤ 256) :
    State.Inv { s with pbuf := s.pbuf.setBytes i bs } := by
  obtain ⟨hparams, ⟨hp, ho, hib, hpin, hoin, hiin⟩, hrest⟩ := h
  exact ⟨hparams, ⟨Mem.setBytes_wf hp i bs, ho, hib, Mem.setBytes_within hpin i bs hi, hoin, hiin⟩, hrest⟩

theorem inv_of_wroteObuf {s : State} (h : s.Inv) {i : Nat} {bs : List Byte} (hi : i + bs.length ≤ 263) :
    State.Inv { s with obuf := s.obuf.setBytes i bs } := by
  obtain ⟨hparams, ⟨hp, ho, hib, hpin, hoin, hiin⟩, hrest⟩ := h
  exact ⟨hparams, ⟨hp, Mem.setBytes_wf ho i bs, hib, hpin, Mem.setBytes_within hoin i bs hi, hiin⟩, hrest⟩

theorem inv_of_wroteIbuf {s : State} (h : s.Inv) {i : Nat} {bs : List Byte} (hi : i + bs.length ≤ s.params.ibufSize) :
    State.Inv { s with ibuf := s.ibuf.setBytes i bs } := by
  obtain ⟨hparams, ⟨hp, ho, hib, hpin, hoin, hiin⟩, hrest⟩ := h
  exact ⟨hparams, ⟨hp, ho, Mem.setBytes_wf hib i bs, hpin, hoin, Mem.setBytes_within hiin i bs hi⟩, hrest⟩

/-- The frame of an ENCODE fits `OBUF`: at most 8 + 255 bytes (20_memory.md R60). -/
theorem encodedFrame_fits {m : Mem} {cmd len : Byte} {payload : List Byte}
    (h : m.bytes 0 len.toNat = some payload) : 0 + (encodedFrame cmd len payload).length ≤ 263 := by
  have hlen := Mem.bytes_length h
  have hbyte : len.toNat < 256 := len.isLt
  rw [encodedFrame_length]; omega

/-! ### The effects of the turns -/

/-- Every answer of the ready port keeps the invariant. -/
theorem RequestEffect.inv {s t : State} (e : RequestEffect s t) (h : s.Inv) (hv : s.pend.valid = false) : t.Inv := by
  have ha := accept_inv h
  cases e with
  | ended st => exact respond_inv st ha hv
  | encoded cmd len payload hp => exact respond_inv .ok (inv_of_wroteObuf ha (encodedFrame_fits hp)) hv
  | parsed off n regs hp =>
    obtain ⟨hparams, hbuf, hpend, hqueue, -, hstatus⟩ := ha
    obtain ⟨-, -, len, -, -, hfields⟩ := parseAt_frame hp
    obtain ⟨_, _, _, -, -, -, -, -, -, -, -, -, -, -, hfind, -, -⟩ := parseFields_some hfields
    refine respond_inv .ok ?_ hv
    exact ⟨hparams, hbuf, hpend, hqueue, hfind, hstatus⟩
  | started b hl =>
    obtain ⟨hparams, hbuf, -, hqueue, hfind, hstatus⟩ := ha
    exact ⟨hparams, hbuf, fun _ => ⟨hl, rfl, rfl, BitVec.le_refl _⟩, hqueue, hfind, hstatus⟩
  | advanced dt => exact respond_inv .ok ha hv

theorem HostEffect.inv {s t : State} (e : HostEffect s t) (h : s.Inv) : t.Inv := by
  cases e with
  | layer => exact h
  | request _ _ _ hv e => exact e.inv h hv
  | wrotePbuf _ _ _ _ hi => exact inv_of_wrotePbuf h hi
  | wroteIbuf _ _ _ _ hi => exact inv_of_wroteIbuf h hi

/-- Taking the head off the queue. -/
theorem inv_of_popped {s : State} {r : Record} {rs : List Record} (h : s.Inv) (hq : s.rxq = r :: rs) :
    State.Inv { s with rxq := rs } := by
  obtain ⟨hparams, hbuf, hpend, ⟨hlen, hempty⟩, hrest⟩ := h
  rw [hq] at hlen hempty
  exact ⟨hparams, hbuf, hpend, ⟨Nat.le_of_succ_le hlen, fun hl => absurd (hempty hl) (by simp)⟩, hrest⟩

/-- Moving the link to a state other than LISTENING while no XFER is pending. -/
theorem inv_of_linkMoved {s : State} {l : LinkState} (h : s.Inv) (hv : s.pend.valid = false) (hl : l ≠ .listening) :
    State.Inv { s with lstate := l } := by
  obtain ⟨hparams, hbuf, -, ⟨hlen, -⟩, hrest⟩ := h
  exact ⟨hparams, hbuf, .of_not_pending hv, ⟨hlen, fun h => absurd h hl⟩, hrest⟩

/-- An XFER is pending in READY only. -/
theorem State.Inv.not_pending {s : State} (h : s.Inv) (hl : s.lstate ≠ .ready) : s.pend.valid = false := by
  obtain ⟨-, -, hpend, -⟩ := h
  exact Bool.eq_false_iff.2 fun hv => hl (hpend hv).1

theorem ReceiveEffect.inv {s t : State} (e : ReceiveEffect s t) (h : s.Inv) : t.Inv := by
  cases e with
  | waits => exact h
  | matched r rs hq hl => exact inv_of_linkMoved (inv_of_popped h hq) (h.not_pending (by simp [hl])) (by decide)
  | mismatched r rs hq hl => exact inv_of_linkMoved (inv_of_popped h hq) (h.not_pending (by simp [hl])) (by decide)
  | completed r rs hq => exact respond_inv .ok (inv_of_freed (inv_of_popped h hq)) rfl
  | dropped r rs log hq => exact inv_of_popped h hq

/-- The peer's push goes through only below the queue's capacity, and never while LISTENING (R25). -/
theorem inv_of_pushed {s : State} {r : Record} (h : s.Inv) (hl : s.lstate = .handshaking ∨ s.lstate = .ready)
    (hlen : s.rxq.length < s.params.rxqDepth) : State.Inv { s with rxq := s.rxq ++ [r] } := by
  obtain ⟨hparams, hbuf, hpend, -, hrest⟩ := h
  refine ⟨hparams, hbuf, hpend, ⟨?_, fun hlisten => ?_⟩, hrest⟩
  · simpa using hlen
  · rw [show s.lstate = .listening from hlisten] at hl; simp at hl

/-- The connection is gone: the queue is empty and the link CLOSED (R187). -/
theorem inv_of_dropped {s : State} (h : s.Inv) (hv : s.pend.valid = false) :
    State.Inv { s with lstate := .closed, rxq := [] } := by
  obtain ⟨hparams, hbuf, -, -, hrest⟩ := h
  exact ⟨hparams, hbuf, .of_not_pending hv, ⟨Nat.zero_le _, fun _ => rfl⟩, hrest⟩

theorem peerStep_inv {op : PeerOp} {s t : State} (e : peerStep op s = some t) (h : s.Inv) : t.Inv := by
  rcases peerStep_some e with ⟨-, hl, rfl⟩ | ⟨r, -, hl, hlen, rfl⟩ | ⟨-, -, hv, rfl⟩ | ⟨-, -, -, rfl⟩
  · exact inv_of_linkMoved h (h.not_pending (by simp [hl])) (by decide)
  · exact inv_of_pushed h hl hlen
  · exact inv_of_dropped h hv
  · exact respond_inv .linkLost (inv_of_dropped (inv_of_freed h) rfl) rfl

theorem peerTurn_inv {s : State} (h : s.Inv) : (peerTurn s).Inv := by
  rcases peerTurn_cases s with e | ⟨op, rest, -, e⟩
  · rw [e]; exact h
  · exact peerStep_inv e h

/-- The clock only moves away from the `t0` of a pending XFER. -/
theorem tick_inv {s : State} (c : DWord) (h : s.Inv) : (tick c s).Inv := by
  rcases tick_cases c s with ⟨hle, e⟩ | ⟨-, e⟩ <;> rw [e]
  · obtain ⟨hparams, hbuf, hpend, hrest⟩ := h
    refine ⟨hparams, hbuf, fun hv => ?_, hrest⟩
    obtain ⟨hl, hresp, hts, ht0⟩ := hpend hv
    exact ⟨hl, hresp, hts, BitVec.le_trans ht0 hle⟩
  · exact h

theorem timeoutStep_inv {s : State} (h : s.Inv) : (timeoutStep s).Inv := by
  rcases timeoutStep_cases s with e | ⟨limit, -, -, -, -, e⟩ <;> rw [e]
  · exact h
  · exact respond_inv .timeout (inv_of_linkMoved (inv_of_freed h) rfl (by decide)) rfl

/-- Reset leaves the parameters alone and every other clause holds of the reset values. -/
theorem blockReset_inv {s : State} (h : s.Inv) : (blockReset s).Inv := by
  obtain ⟨hparams, -⟩ := h
  have hbuf : (blockReset s).BuffersKept := by simp [State.BuffersKept, blockReset, State.reset]
  have hfind : (blockReset s).FindingsKept := by
    change 0 = findings 0 0 0 0
    decide
  exact ⟨hparams, hbuf, .of_not_pending rfl, ⟨Nat.zero_le _, fun _ => rfl⟩, hfind, rfl⟩

/-- Whatever a step does keeps the invariant. -/
theorem StepEffect.inv {s t : State} (e : StepEffect s t) (h : s.Inv) : t.Inv := by
  cases e with
  | idle => exact h
  | host rest _ _ e => exact e.inv h
  | peer rest => exact peerTurn_inv (s := { s with script := rest }) h
  | tick rest c => exact tick_inv (s := { s with script := rest }) c h
  | receive rest _ _ e => exact e.inv h
  | timeout rest => exact timeoutStep_inv (s := { s with script := rest }) h
  | reset rest => exact blockReset_inv (s := { s with script := rest }) h

/-- Settles O41: each effect in the list of `step_next` keeps the invariant. -/
theorem stepKeepsTheInvariant : Obligations.StepKeepsTheInvariant :=
  fun _ _ hinv h => (step_next h).inv hinv

end Sys2Proof.Machine
end

section
/-! The family of 10_state.md: what the read port shows, and which operation writes each register. -/

namespace Sys2Proof.Machine

open Sys2Proof.Claims

/-! ## The statements' timestamp and record are the block's (41_byte_exchange.md R162, R163) -/

theorem stampAt_eq_stampOf (now offset : DWord) : stampAt now offset = stampOf now offset :=
  BitVec.eq_of_toNat_eq (by simp [stampAt, stampOf])

/-- A byte of the timestamp field that lies below bit 31 is a byte of the timestamp. -/
theorem byteOfWord_stamp_low (ts : Stamp) {k : Nat} (hk : 8 * k + 8 ≤ 31) :
    byteOfWord (ts.setWidth 32) k = ts.extractLsb' (8 * k) 8 := by
  ext i hi
  simp [byteOfWord]; omega

/-- Bit 31 of the timestamp field is 0. -/
theorem byteOfWord_stamp_high (ts : Stamp) : byteOfWord (ts.setWidth 32) 3 = 0#1 ++ ts.extractLsb' 24 7 := by
  ext i hi
  rw [BitVec.getElem_append]
  split
  · simp [byteOfWord]; omega
  · obtain rfl : i = 7 := by omega
    simp [byteOfWord]

theorem builtRecord_eq_stampedRecord (code b c d : Byte) (ts : Stamp) :
    builtRecord code b c d ts = stampedRecord code b c d ts := by
  simp [builtRecord, stampBytes, stampedRecord, mkRecord, byteOfWord_stamp_low, byteOfWord_stamp_high]

/-! ## The read port (R32) -/

/-- A concatenation as a number: the first operand stands above the second. -/
theorem toNat_append_eq_add {w v : Nat} (x : BitVec w) (y : BitVec v) :
    (x ++ y).toNat = x.toNat * 2 ^ v + y.toNat := by
  rw [BitVec.toNat_append, ← Nat.shiftLeft_add_eq_or_of_lt y.isLt, Nat.shiftLeft_eq]

theorem readPort_lstate (s : State) :
    (readPort s 0x00).toNat = (match s.lstate with
      | .listening => 0 | .handshaking => 1 | .ready => 2 | .failed => 3 | .closed => 4) := by
  cases h : s.lstate <;> simp [readPort, LinkState.code, h]

/-- The two words of `TIME_OFFSET`, the low one first. -/
theorem readPort_timeOffset (s : State) :
    (readPort s 0x02).toNat + (readPort s 0x03).toNat * 2 ^ 32 = s.timeOffset.toNat := by
  change (s.timeOffset.extractLsb' 0 32).toNat + (s.timeOffset.extractLsb' 32 32).toNat * 2 ^ 32 = _
  rw [BitVec.extractLsb'_toNat, BitVec.extractLsb'_toNat, Nat.shiftRight_zero, Nat.shiftRight_eq_div_pow]
  omega

/-- `PEND`: the byte in bits 15:8, the valid bit in bit 0. -/
theorem readPort_pend (s : State) : (readPort s 0x04).toNat = s.pend.tx.toNat * 256 + s.pend.valid.toNat := by
  calc (readPort s 0x04).toNat
    _ = (s.pend.tx ++ 0#7 ++ BitVec.ofBool s.pend.valid).toNat := BitVec.toNat_setWidth_of_le (by decide)
    _ = s.pend.tx.toNat * 256 + s.pend.valid.toNat := by
      rw [toNat_append_eq_add, toNat_append_eq_add, BitVec.toNat_ofBool, BitVec.toNat_zero]
      omega

theorem readPort_unlisted {s : State} {index : Byte} (h : 0x14 < index.toNat) : readPort s index = 0 := by
  unfold readPort
  split
  case h_22 => rfl
  all_goals omega

/-- A read by a free host: it moves past the step and remembers the word. -/
theorem step_readReg {s : State} {rest : List Turn} {index : Byte} {ops : List HostOp}
    (h : hostDoes s rest (.readReg index) ops) :
    step s = .next { s with
      script := rest
      host := { s.host with queue := ops, seen := s.host.seen ++ [.reg index (readPort s index)] } } := by
  rw [step_hostDoes h]; rfl

/-- Settles O39: the registers of 32 bits or fewer are widened with zeros, and the others have a lemma each. -/
theorem readPortMap : Obligations.ReadPortMap := by
  refine ⟨fun s => ⟨readPort_lstate s, ?_, readPort_timeOffset s, readPort_pend s, ?_, ?_, ?_, ?_, ?_, ?_, ?_, ?_, ?_,
    ?_, ?_, ?_, ?_, ?_, ?_, ?_, fun _ => readPort_unlisted⟩, fun _ _ _ _ => step_readReg⟩
  all_goals exact BitVec.toNat_setWidth_of_le (by decide)

/-! ## The answers of PARSE (R30, 40_frame_codec.md R123) -/

/-- The statuses with which a parse ends short of a frame. -/
theorem parseAt_ends {size : Nat} {m : Mem} {o n : Nat} {st : Status} (h : parseAt size m o n = .ends st) :
    st = .noMatch ∨ st = .incomplete ∨ st = .badRequest := by
  simp only [parseAt] at h
  split at h
  · cases h; exact .inr (.inr rfl)
  split at h
  · cases h; exact .inl rfl
  split at h
  · cases h
  split at h
  · cases h; exact .inl rfl
  split at h
  · cases h; exact .inr (.inl rfl)
  simp only [parseBody] at h
  split at h
  · cases h
  split at h
  · cases h; exact .inr (.inl rfl)
  split at h <;> cases h

/-- A ready port's answer to PARSE: a status alone, or `OK` with the registers of a frame. -/
theorem exec_parse_next {off n : Half} {s t : State} (h : exec (.parse off n) s = .next t)
    (hv : s.pend.valid = false) :
    (∃ st, parseAt s.params.ibufSize s.ibuf off.toNat n.toNat = .ends st ∧ t = respond st (accept s)) ∨
    ∃ regs, parseAt s.params.ibufSize s.ibuf off.toNat n.toNat = .frame regs ∧
      t = respond .ok { accept s with parse := regs } := by
  change execParse off n s = .next t at h
  rw [execParse, onPort_ready hv] at h
  split at h
  · next st hp => cases h; exact .inl ⟨st, hp, rfl⟩
  · cases h
  · next regs hp => cases h; exact .inr ⟨regs, hp, rfl⟩

/-- Settles O17: the two answers of PARSE, and the three statuses of the one that leaves the registers alone. -/
theorem parseChangesOnlyItsRegisters : Obligations.ParseChangesOnlyItsRegisters := by
  intro off n s t hv h
  rcases exec_parse_next h hv with ⟨st, hp, rfl⟩ | ⟨regs, -, rfl⟩
  · refine ⟨st, rfl, rfl, rfl, .inr ⟨?_, rfl⟩⟩
    rcases parseAt_ends hp with rfl | rfl | rfl
    · exact .inl ⟨rfl, rfl⟩
    · exact .inr (.inl ⟨rfl, rfl⟩)
    · exact .inr (.inr ⟨rfl, rfl⟩)
  · exact ⟨.ok, rfl, rfl, rfl, .inl ⟨rfl, rfl⟩⟩

/-! ## Who writes `TIME_OFFSET` and the result registers (R22, R26, R28 to R31) -/

/-- `TIME_OFFSET` and every result register stay as they are. -/
structure KeepsRegisters (s t : State) : Prop where
  timeOffset : t.timeOffset = s.timeOffset
  parse : t.parse = s.parse
  obuf : t.obuf = s.obuf
  eLen : t.eLen = s.eLen
  eCsum : t.eCsum = s.eCsum
  xRx : t.xRx = s.xRx
  xTs : t.xTs = s.xTs

theorem peerTurn_keepsRegisters (s : State) : KeepsRegisters s (peerTurn s) := by
  rcases peerTurn_cases s with h | ⟨op, rest, -, h⟩
  · rw [h]; constructor <;> rfl
  · rcases peerStep_some h with ⟨-, -, h⟩ | ⟨r, -, -, -, h⟩ | ⟨-, -, -, h⟩ | ⟨-, -, -, h⟩ <;>
      rw [h] <;> constructor <;> rfl

theorem tick_keepsRegisters (c : DWord) (s : State) : KeepsRegisters s (tick c s) := by
  rcases tick_cases c s with ⟨-, h⟩ | ⟨-, h⟩ <;> rw [h] <;> constructor <;> rfl

theorem timeoutStep_keepsRegisters (s : State) : KeepsRegisters s (timeoutStep s) := by
  rcases timeoutStep_cases s with h | ⟨limit, -, -, -, -, h⟩ <;> rw [h] <;> constructor <;> rfl

/-- A step without reset, as the registers see it: a request of the host, the completion of an XFER, or nothing. -/
inductive RegisterEffect (s : State) : State → Prop where
  /-- no register is written -/
  | kept (t : State) (h : KeepsRegisters s t) : RegisterEffect s t
  /-- a request ran on the ready port in the host's turn -/
  | request (rest : List Turn) (hs : s.script = .host :: rest) (hv : s.pend.valid = false) (host : HostState) (k : Nat)
    (t : State) (e : RequestEffect { s with script := rest, host := host, freeDraws := k } t) : RegisterEffect s t
  /-- a reply completed the pending XFER in the core's turn -/
  | completed (rest : List Turn) (hs : s.script = .receive :: rest) (hv : s.pend.valid = true) (b : Byte)
    (rs : List Record) : RegisterEffect s (completeXfer b { s with script := rest, rxq := rs })

/-- Of all a step can do, only a request and a completion reach the registers. -/
theorem StepEffect.registerEffect {s t : State} (e : StepEffect s t) (hreset : s.script.head? ≠ some .reset) :
    RegisterEffect s t := by
  cases e with
  | idle => exact .kept _ (by constructor <;> rfl)
  | host rest hs t e =>
    cases e with
    | request host k t hv e => exact .request rest hs hv host k t e
    | layer | wrotePbuf | wroteIbuf => exact .kept _ (by constructor <;> rfl)
  | peer rest => exact .kept _ { peerTurn_keepsRegisters { s with script := rest } with }
  | tick rest c => exact .kept _ { tick_keepsRegisters c { s with script := rest } with }
  | receive rest hs t e =>
    cases e with
    | completed r rs hq hl hv hr => exact .completed rest hs hv r.fieldB rs
    | waits | matched | mismatched | dropped => exact .kept _ (by constructor <;> rfl)
  | timeout rest => exact .kept _ { timeoutStep_keepsRegisters { s with script := rest } with }
  | reset rest hs => exact absurd (by rw [hs]; rfl) hreset

/-- Settles O44: of the requests that write a register, ADVANCE alone writes this one. -/
theorem onlyAdvanceMovesTimeOffset : Obligations.OnlyAdvanceMovesTimeOffset := by
  intro s t h hreset hmoved
  cases (step_next h).registerEffect hreset with
  | kept _ k => exact absurd k.timeOffset hmoved
  | completed => exact absurd rfl hmoved
  | request rest hs hv host k t e =>
    cases e with
    | advanced dt hl =>
      refine ⟨by rw [hs]; rfl, hl, hv, dt, rfl, ?_, rfl⟩
      rw [stampAt_eq_stampOf, builtRecord_eq_stampedRecord]; rfl
    | ended | encoded | parsed | started => exact absurd rfl hmoved

/-- The PARSE registers and the results of ENCODE: written by a host's request that ends `OK` and sends nothing. -/
theorem RegisterEffect.codec_writer {s t : State} (e : RegisterEffect s t)
    (h : t.parse ≠ s.parse ∨ t.obuf ≠ s.obuf ∨ t.eLen ≠ s.eLen ∨ t.eCsum ≠ s.eCsum) :
    s.script.head? = some .host ∧ t.respHist = s.respHist ++ [.ok] ∧ t.txHist = s.txHist := by
  cases e with
  | kept _ k => simp [k.parse, k.obuf, k.eLen, k.eCsum] at h
  | completed => simp at h
  | request rest hs hv host k t e =>
    cases e with
    | encoded | parsed => exact ⟨by rw [hs]; rfl, rfl, rfl⟩
    | ended | started | advanced => simp at h

/-- PARSE does not write what ENCODE writes. -/
theorem RegisterEffect.parse_leaves_encode {s t : State} (e : RegisterEffect s t) (h : t.parse ≠ s.parse) :
    t.obuf = s.obuf ∧ t.eLen = s.eLen ∧ t.eCsum = s.eCsum := by
  cases e with
  | kept _ k => exact ⟨k.obuf, k.eLen, k.eCsum⟩
  | completed => exact ⟨rfl, rfl, rfl⟩
  | request rest hs hv host k t e =>
    cases e with
    | encoded => exact absurd rfl h
    | ended | parsed | started | advanced => exact ⟨rfl, rfl, rfl⟩

/-- `X_RX` is written by the completion of an XFER. -/
theorem RegisterEffect.xRx_writer {s t : State} (e : RegisterEffect s t) (h : t.xRx ≠ s.xRx) :
    s.script.head? = some .receive ∧ s.pend.valid = true ∧ t.pend.valid = false ∧
      t.respHist = s.respHist ++ [.ok] := by
  cases e with
  | kept _ k => exact absurd k.xRx h
  | completed rest hs hv => exact ⟨by rw [hs]; rfl, hv, rfl, rfl⟩
  | request rest hs hv host k t e => cases e <;> exact absurd rfl h

/-- `X_TS` is written by the start of an XFER. -/
theorem RegisterEffect.xTs_writer {s t : State} (e : RegisterEffect s t) (h : t.xTs ≠ s.xTs) :
    s.script.head? = some .host ∧ s.pend.valid = false ∧ t.pend.valid = true ∧ t.pend.ts = t.xTs ∧
      ∃ r, t.txHist = s.txHist ++ [r] := by
  cases e with
  | kept _ k => exact absurd k.xTs h
  | completed => exact absurd rfl h
  | request rest hs hv host k t e =>
    cases e with
    | started => exact ⟨by rw [hs]; rfl, hv, rfl, rfl, _, rfl⟩
    | ended | encoded | parsed | advanced => exact absurd rfl h

/-- Settles O46: one lemma for each clause, over the register effects of a step. -/
theorem resultRegistersHaveOneWriter : Obligations.ResultRegistersHaveOneWriter := by
  intro s t h hreset
  have e := (step_next h).registerEffect hreset
  exact ⟨e.codec_writer, e.parse_leaves_encode, e.xRx_writer, e.xTs_writer⟩

end Sys2Proof.Machine
end

section
/-! The family of 20_memory.md: the buffers as a program sees them. A codec instruction run again over the same buffers
does the same again, and a host write stores its bytes or stops. -/

namespace Sys2Proof.Machine

open Sys2Proof.Claims

/-! ## Reads after a bulk write (R60) -/

theorem Mem.byte_setBytes_inside (m : Mem) {i k : Nat} {bs : List Byte} (h : k < bs.length) :
    (m.setBytes i bs).byte (i + k) = bs[k]? := by
  rw [Mem.byte_setBytes, if_pos ⟨by omega, by omega⟩, Nat.add_sub_cancel_left]

theorem Mem.byte_setBytes_outside (m : Mem) {i a : Nat} {bs : List Byte} (h : a < i ∨ i + bs.length ≤ a) :
    (m.setBytes i bs).byte a = m.byte a := by
  rw [Mem.byte_setBytes, if_neg (by omega)]

/-- Writing the same bytes to the same place again changes no byte. -/
theorem Mem.byte_setBytes_again (m : Mem) (i : Nat) (bs : List Byte) (a : Nat) :
    ((m.setBytes i bs).setBytes i bs).byte a = (m.setBytes i bs).byte a := by
  by_cases h : a < i ∨ i + bs.length ≤ a
  · exact Mem.byte_setBytes_outside _ h
  · obtain ⟨k, rfl⟩ : ∃ k, a = i + k := Nat.exists_eq_add_of_le (by omega)
    have hk : k < bs.length := by omega
    rw [Mem.byte_setBytes_inside _ hk, Mem.byte_setBytes_inside _ hk]

/-! ## The codec run twice (R69) -/

/-- A ready port's answer to PARSE where the parse ends with a status alone. -/
theorem exec_parse_ends {off n : Half} {s : State} {st : Status} (hv : s.pend.valid = false)
    (h : parseAt s.params.ibufSize s.ibuf off.toNat n.toNat = .ends st) :
    exec (.parse off n) s = .next (respond st (accept s)) := by
  change execParse off n s = _
  rw [execParse, onPort_ready hv, accept_params, accept_ibuf, h]; rfl

/-- A ready port's answer to PARSE where the parse finds a frame. -/
theorem exec_parse_frame {off n : Half} {s : State} {regs : ParseRegs} (hv : s.pend.valid = false)
    (h : parseAt s.params.ibufSize s.ibuf off.toNat n.toNat = .frame regs) :
    exec (.parse off n) s = .next (respond .ok { accept s with parse := regs }) := by
  change execParse off n s = _
  rw [execParse, onPort_ready hv, accept_params, accept_ibuf, h]; rfl

/-- The state in which ENCODE has answered `OK`, the payload being `payload`. -/
def encodeAnswered (cmd len : Byte) (payload : List Byte) (s : State) : State :=
  respond .ok { accept s with
    obuf := s.obuf.setBytes 0 (encodedFrame cmd len payload)
    eLen := BitVec.ofNat 16 (8 + len.toNat)
    eCsum := csum cmd 0 0 len payload }

/-- A ready port's answer to ENCODE where the payload is written. -/
theorem exec_encode_written {cmd len : Byte} {s : State} {payload : List Byte} (hv : s.pend.valid = false)
    (h : s.pbuf.bytes 0 len.toNat = some payload) :
    exec (.encode cmd len) s = .next (encodeAnswered cmd len payload s) := by
  change execEncode cmd len s = _
  rw [execEncode, onPort_ready hv, accept_pbuf, h]; rfl

/-- ENCODE answers a next state only from a payload that is written. -/
theorem exec_encode_next {cmd len : Byte} {s t : State} (h : exec (.encode cmd len) s = .next t)
    (hv : s.pend.valid = false) :
    ∃ payload, s.pbuf.bytes 0 len.toNat = some payload ∧ t = encodeAnswered cmd len payload s := by
  cases hp : s.pbuf.bytes 0 len.toNat with
  | some payload =>
    rw [exec_encode_written hv hp] at h
    cases h
    exact ⟨payload, rfl, rfl⟩
  | none =>
    change execEncode cmd len s = .next t at h
    rw [execEncode, onPort_ready hv, accept_pbuf, hp] at h
    cases h

/-- PARSE writes neither `IBUF` nor the pending slot, so the second run sees what the first one saw. -/
theorem exec_parse_again {off n : Half} {s t : State} (hv : s.pend.valid = false)
    (h : exec (.parse off n) s = .next t) :
    ∃ st, t.response = some st ∧
      exec (.parse off n) t = .next { t with respHist := t.respHist ++ [st] } := by
  rcases exec_parse_next h hv with ⟨st, hp, rfl⟩ | ⟨regs, hp, rfl⟩
  · exact ⟨st, rfl, exec_parse_ends hv hp⟩
  · exact ⟨.ok, rfl, exec_parse_frame hv hp⟩

/-- ENCODE writes neither `PBUF` nor the pending slot: the second run encodes the same payload, and its write puts the
same frame in the same place. -/
theorem exec_encode_again {cmd len : Byte} {s t : State} (hv : s.pend.valid = false)
    (h : exec (.encode cmd len) s = .next t) :
    ∃ u, exec (.encode cmd len) t = .next u ∧
      u = { t with obuf := u.obuf, respHist := t.respHist ++ [.ok] } ∧ ∀ a, u.obuf.byte a = t.obuf.byte a := by
  obtain ⟨payload, hp, rfl⟩ := exec_encode_next h hv
  exact ⟨_, exec_encode_written hv hp, rfl, Mem.byte_setBytes_again s.obuf 0 (encodedFrame cmd len payload)⟩

/-- Settles O18: the second run of each instruction. -/
theorem codecIsIdempotent : Obligations.CodecIsIdempotent :=
  ⟨fun _ _ _ _ => exec_parse_again, fun _ _ _ _ => exec_encode_again⟩

/-! ## Host writes to `PBUF` and `IBUF` (R60, R76, R266) -/

theorem hostWrite_outstanding {sp : Space} {i : Nat} {bs : List Byte} {s : State} (hv : s.pend.valid = true) :
    hostWrite sp i bs s = .fault .hostHazard := if_pos hv

theorem hostWrite_pastEnd {sp : Space} {i : Nat} {bs : List Byte} {s : State} (hv : s.pend.valid = false)
    (hi : i + bs.length > spaceSize s.params sp) : hostWrite sp i bs s = .fault .noSuchByte := by
  simp [hostWrite, hv, hi]

theorem hostWrite_pbuf {i : Nat} {bs : List Byte} {s : State} (hv : s.pend.valid = false)
    (hi : i + bs.length ≤ 256) : hostWrite .pbuf i bs s = .next { s with pbuf := s.pbuf.setBytes i bs } := by
  simp [hostWrite, hv, spaceSize, hi]

theorem hostWrite_ibuf {i : Nat} {bs : List Byte} {s : State} (hv : s.pend.valid = false)
    (hi : i + bs.length ≤ s.params.ibufSize) :
    hostWrite .ibuf i bs s = .next { s with ibuf := s.ibuf.setBytes i bs } := by
  simp [hostWrite, hv, spaceSize, hi]

theorem step_writePbuf {s : State} {rest : List Turn} {i : Nat} {bs : List Byte} {ops : List HostOp}
    (h : hostDoes s rest (.writePbuf i bs) ops) : step s = hostWrite .pbuf i bs (hostDone ops rest s) :=
  step_hostDoes h

theorem step_writeIbuf {s : State} {rest : List Turn} {i : Nat} {bs : List Byte} {ops : List HostOp}
    (h : hostDoes s rest (.writeIbuf i bs) ops) : step s = hostWrite .ibuf i bs (hostDone ops rest s) :=
  step_hostDoes h

/-- Settles O48: for each buffer the two stops and the write that goes through. -/
theorem hostBufferWrites : Obligations.HostBufferWrites := by
  refine ⟨?pbuf, ?ibuf⟩
  case pbuf =>
    intro s rest i bs ops h
    rw [step_writePbuf h]
    refine ⟨fun hv => hostWrite_outstanding hv, fun hv hi => hostWrite_pastEnd hv hi, fun hv hi => ?_⟩
    exact ⟨_, hostWrite_pbuf hv hi, rfl, fun _ => Mem.byte_setBytes_inside s.pbuf,
      fun _ => Mem.byte_setBytes_outside s.pbuf⟩
  case ibuf =>
    intro s rest i bs ops h
    rw [step_writeIbuf h]
    refine ⟨fun hv => hostWrite_outstanding hv, fun hv hi => hostWrite_pastEnd hv hi, fun hv hi => ?_⟩
    exact ⟨_, hostWrite_ibuf hv hi, rfl, fun _ => Mem.byte_setBytes_inside s.ibuf,
      fun _ => Mem.byte_setBytes_outside s.ibuf⟩

end Sys2Proof.Machine
end

section
/-! The family of 30_encoding.md: the decoder and the encoder are inverse to each other on each of the three kinds of
code, the request port answers what it cannot decode and holds what comes too early, and the two rows that a host
reaches by a step of its own: the commands and `advance_time`. -/

namespace Sys2Proof.Machine

open Sys2Proof.Claims

/-! ## Request words (R81 to R87, R104) -/

/-- The request words of the four rows R82 to R85, each with the instruction that it names. -/
inductive RequestRow : DWord → Instr → Prop where
  | encode (cmd len : Byte) : RequestRow (encodeWord cmd len) (.encode cmd len)
  | parse (off n : Half) : RequestRow (parseWord off n) (.parse off n)
  | xfer (b : Byte) : RequestRow (xferWord b) (nameXfer b)
  | advance (dt : Word) : RequestRow (advanceWord dt) (nameAdvance dt)

theorem RequestRow.of_eq {q q' : DWord} {i : Instr} (h : q' = q) (row : RequestRow q' i) : RequestRow q i := h ▸ row

/-- The decoder reads exactly the four rows: the must-be-zero fields leave a word nothing but its operands. -/
theorem decodeRequest_eq_ok_iff {q : DWord} {i : Instr} : decodeRequest q = .ok i ↔ RequestRow q i := by
  constructor
  · intro h
    have hq := requestWord_fields q
    unfold decodeRequest at h
    split_ifs at h with hop hzero hop hzero hop hzero hop hzero
    · obtain ⟨hz, hw⟩ := hzero
      cases h
      rw [hop, hz, hw] at hq
      exact .of_eq hq (.encode (fieldA q) (fieldB q))
    · obtain ⟨ha, hb, hz⟩ := hzero
      cases h
      rw [hop, ha, hb, hz, ← fieldW_halves] at hq
      exact .of_eq hq (.parse (fieldWH q) (fieldWL q))
    · obtain ⟨hb, hz, hw⟩ := hzero
      cases h
      rw [hop, hb, hz, hw] at hq
      exact .of_eq hq (.xfer (fieldA q))
    · obtain ⟨ha, hb, hz⟩ := hzero
      cases h
      rw [hop, ha, hb, hz] at hq
      exact .of_eq hq (.advance (fieldW q))
  · rintro (⟨cmd, len⟩ | ⟨off, n⟩ | ⟨b⟩ | ⟨dt⟩)
    · simp [decodeRequest, encodeWord, fields_requestWord]
    · simp [decodeRequest, parseWord, fields_requestWord, halves_requestWord]
    · simp [decodeRequest, xferWord, fields_requestWord]
    · simp [decodeRequest, advanceWord, fields_requestWord]

/-- `XFER` leaves the bytes of R104 to the pseudo-instructions. -/
theorem wellFormed_xfer {b : Byte} : Instr.WellFormed (.xfer b) ↔ b ≠ 0x4B ∧ b ≠ 0x80 ∧ b ≠ 0x00 := by
  simp [Instr.WellFormed, Instr.wellFormed, pseudoXferBytes]

theorem wellFormed_advance {dt : Word} : Instr.WellFormed (.advance dt) ↔ dt ≠ 0 := bne_iff_ne

theorem nameXfer_eq_xfer {b : Byte} (h : Instr.WellFormed (.xfer b)) : nameXfer b = .xfer b := by
  obtain ⟨hpoll, heoc, hpad⟩ := wellFormed_xfer.1 h
  rw [nameXfer, if_neg hpoll, if_neg heoc, if_neg hpad]

theorem nameAdvance_eq_advance {dt : Word} (h : Instr.WellFormed (.advance dt)) : nameAdvance dt = .advance dt :=
  if_neg (wellFormed_advance.1 h)

/-- Whatever its name, an XFER is encoded as the word of its byte. -/
theorem encode_nameXfer (b : Byte) : encode (nameXfer b) = .request (xferWord b) := by
  unfold nameXfer
  split_ifs with hpoll heoc hpad
  · rw [hpoll]; rfl
  · rw [heoc]; rfl
  · rw [hpad]; rfl
  · rfl

theorem encode_nameAdvance (dt : Word) : encode (nameAdvance dt) = .request (advanceWord dt) := by
  unfold nameAdvance
  split_ifs with htsync
  · rw [htsync]; rfl
  · rfl

theorem nameXfer_wellFormed (b : Byte) : (nameXfer b).WellFormed := by
  unfold nameXfer
  split_ifs with hpoll heoc hpad
  · rfl
  · rfl
  · rfl
  · exact wellFormed_xfer.2 ⟨hpoll, heoc, hpad⟩

theorem nameAdvance_wellFormed (dt : Word) : (nameAdvance dt).WellFormed := by
  unfold nameAdvance
  split_ifs with htsync
  · rfl
  · exact wellFormed_advance.2 htsync

theorem RequestRow.encode_eq {q : DWord} {i : Instr} (h : RequestRow q i) : Sys2Proof.encode i = .request q := by
  cases h with
  | encode cmd len => rfl
  | parse off n => rfl
  | xfer b => exact encode_nameXfer b
  | advance dt => exact encode_nameAdvance dt

theorem RequestRow.wellFormed {q : DWord} {i : Instr} (h : RequestRow q i) : i.WellFormed := by
  cases h with
  | encode cmd len => rfl
  | parse off n => rfl
  | xfer b => exact nameXfer_wellFormed b
  | advance dt => exact nameAdvance_wellFormed dt

/-! ## Records (R89 to R96) -/

@[simp] theorem mkRecord_code (code b c d : Byte) (ts : Word) : (mkRecord code b c d ts).code = code := rfl
@[simp] theorem mkRecord_fieldB (code b c d : Byte) (ts : Word) : (mkRecord code b c d ts).fieldB = b := rfl
@[simp] theorem mkRecord_fieldC (code b c d : Byte) (ts : Word) : (mkRecord code b c d ts).fieldC = c := rfl
@[simp] theorem mkRecord_fieldD (code b c d : Byte) (ts : Word) : (mkRecord code b c d ts).fieldD = d := rfl

/-- An unknown record has a code outside the table of R90. -/
theorem wellFormed_recUnknown {code b c d : Byte} {ts : Word} : Instr.WellFormed (.recUnknown code b c d ts) ↔
    code ≠ 0x01 ∧ code ≠ 0x65 ∧ code ≠ 0x68 ∧ code ≠ 0x69 ∧ code ≠ 0x6A ∧ code ≠ 0x6C ∧ code ≠ 0x6D := by
  simp [Instr.WellFormed, Instr.wellFormed, recognisedCodes]

theorem encode_decodeRecord (r : Record) : encode (decodeRecord r) = .record r := by
  have hr := mkRecord_ts r
  unfold decodeRecord
  split_ifs with hcode hcode hcode hcode hcode hcode hcode
  case neg => exact congrArg Code.record hr
  all_goals exact congrArg Code.record (hcode ▸ hr)

theorem decodeRecord_wellFormed (r : Record) : (decodeRecord r).WellFormed := by
  unfold decodeRecord
  split_ifs with h01 h65 h68 h69 h6A h6C h6D
  case neg => exact wellFormed_recUnknown.2 ⟨h01, h65, h68, h69, h6A, h6C, h6D⟩
  all_goals rfl

/-- A record of a code outside the table of R90 keeps its code (R96). -/
theorem decodeRecord_unknown {code : Byte} (b c d : Byte) (ts : Word)
    (h : Instr.WellFormed (.recUnknown code b c d ts)) :
    decodeRecord (mkRecord code b c d ts) = .recUnknown code b c d ts := by
  obtain ⟨h01, h65, h68, h69, h6A, h6C, h6D⟩ := wellFormed_recUnknown.1 h
  simp only [decodeRecord, ts_mkRecord, mkRecord_code, mkRecord_fieldB, mkRecord_fieldC, mkRecord_fieldD, h01, h65, h68,
    h69, h6A, h6C, h6D, if_false]

/-! ## Commands (R102) -/

/-- A listed id with a payload that fits decodes to the command of its row. -/
theorem decodeCommand_listed {id : Byte} {p : List Byte} {cmd : List Byte → Instr} (hp : p.length ≤ maxPayload)
    (hrow : commandTable.find? (fun row => row.1 == id) = some (id, cmd)) : decodeCommand id p = .ok (cmd p) := by
  simp [decodeCommand, hp, hrow]

theorem decodeCommand_eq_ok {id : Byte} {p : List Byte} {i : Instr} (h : decodeCommand id p = .ok i) :
    p.length ≤ maxPayload ∧ ∃ row ∈ commandTable, row.1 = id ∧ row.2 p = i := by
  unfold decodeCommand at h
  split at h
  case isFalse => cases h
  case isTrue hp =>
    split at h
    · next row hrow =>
      cases h
      exact ⟨hp, row, List.mem_of_find?_eq_some hrow, by simpa using List.find?_some hrow, rfl⟩
    · cases h

/-- What a row of the command table says of its instruction: its code, when it is well formed, and which call of the
driver it is, transfer-data with no payload setting the latch first (R213). -/
theorem commandTable_row (p : List Byte) :
    ∀ row ∈ commandTable, encode (row.2 p) = .command row.1 p ∧
      (row.2 p).wellFormed = decide (p.length ≤ maxPayload) ∧
      ∀ s, exec (row.2 p) s = callDriver row.1 (row.1 == 0x15 && p.isEmpty) p s := by
  intro row h
  simp only [commandTable, List.mem_cons, List.not_mem_nil, or_false] at h
  rcases h with rfl | rfl | rfl | rfl | rfl | rfl | rfl | rfl | rfl | rfl | rfl | rfl | rfl | rfl | rfl | rfl | rfl
    | rfl | rfl | rfl | rfl
  all_goals exact ⟨rfl, rfl, fun _ => rfl⟩

/-! ## The two directions -/

/-- Settles O1: a request by its row, a record by its code, a command by its row of the table. -/
theorem decodeEncodeAgree : Obligations.DecodeEncodeAgree := by
  intro i h
  cases i
  case encode cmd len => exact decodeRequest_eq_ok_iff.2 (.encode cmd len)
  case parse off n => exact decodeRequest_eq_ok_iff.2 (.parse off n)
  case xfer b => exact decodeRequest_eq_ok_iff.2 (nameXfer_eq_xfer h ▸ .xfer b)
  case advance dt => exact decodeRequest_eq_ok_iff.2 (nameAdvance_eq_advance h ▸ .advance dt)
  case tsync => exact decodeRequest_eq_ok_iff.2 (.advance 0)
  case poll => exact decodeRequest_eq_ok_iff.2 (.xfer 0x4B)
  case eoc => exact decodeRequest_eq_ok_iff.2 (.xfer 0x80)
  case pad => exact decodeRequest_eq_ok_iff.2 (.xfer 0x00)
  case recUnknown code b c d ts => exact congrArg Except.ok (decodeRecord_unknown b c d ts h)
  case recVersion b c d ts | recJoypad b c d ts | recXferReq b c d ts | recXferReply b c d ts | recTimeSync b c d ts
      | recStatus b c d ts | recDisconnectReq b c d ts =>
    simp [encode, decode, decodeRecord, ts_mkRecord]
  all_goals
    rw [encode, decode]
    exact decodeCommand_listed (of_decide_eq_true h) rfl

/-- Settles O2: the same three kinds of code, read backwards. -/
theorem encodeDecodeAgree : Obligations.EncodeDecodeAgree := by
  intro c i h
  cases c with
  | request q =>
    have hrow := decodeRequest_eq_ok_iff.1 h
    exact ⟨hrow.encode_eq, hrow.wellFormed⟩
  | record r =>
    cases h
    exact ⟨encode_decodeRecord r, decodeRecord_wellFormed r⟩
  | command id p =>
    obtain ⟨hp, row, hmem, rfl, rfl⟩ := decodeCommand_eq_ok h
    obtain ⟨hencode, hwf, -⟩ := commandTable_row p row hmem
    exact ⟨hencode, hwf.trans (decide_eq_true hp)⟩

/-- Settles O3: the decoder run on each of the seven codes. -/
theorem specWordsDecode : Obligations.SpecWordsDecode := by
  unfold Obligations.SpecWordsDecode
  decide

/-- Settles O4: the meaning of each pseudo-instruction is, by its definition, that of its expansion. -/
theorem pseudoInstructionsAreTheirExpansion : Obligations.PseudoInstructionsAreTheirExpansion :=
  ⟨by decide, by decide, by decide, by decide, fun _ => ⟨rfl, rfl, rfl, rfl⟩⟩

/-! ## Illegal words and the hold of the port (R86, R87) -/

/-- A mask is applied field by field. -/
theorem requestWord_and (op a b z op' a' b' z' : Byte) (w w' : Word) :
    requestWord op a b z w &&& requestWord op' a' b' z' w' =
      requestWord (op &&& op') (a &&& a') (b &&& b') (z &&& z') (w &&& w') := by
  simp only [requestWord, ← BitVec.and_append]

/-- A word that decodes meets the match and mask of its row. -/
theorem RequestRow.legalWord {q : DWord} {i : Instr} (h : RequestRow q i) : legalWord q := by
  cases h with
  | encode cmd len =>
    refine .inl ?_
    change requestWord 0x01 cmd len 0 0 &&& requestWord 0xFF 0 0 0xFF 0xFFFFFFFF = _
    rw [requestWord_and]
    simp [requestWord]
  | parse off n =>
    refine .inr (.inl ?_)
    change requestWord 0x02 0 0 0 (off ++ n) &&& requestWord 0xFF 0xFF 0xFF 0xFF 0 = _
    rw [requestWord_and]
    simp [requestWord]
  | xfer b =>
    refine .inr (.inr (.inl ?_))
    change requestWord 0x10 b 0 0 0 &&& requestWord 0xFF 0 0xFF 0xFF 0xFFFFFFFF = _
    rw [requestWord_and]
    simp [requestWord]
  | advance dt =>
    refine .inr (.inr (.inr ?_))
    change requestWord 0x11 0 0 0 dt &&& requestWord 0xFF 0xFF 0xFF 0xFF 0 = _
    rw [requestWord_and]
    simp [requestWord]

/-- A word outside the four rows does not decode, so the port answers it as illegal. -/
theorem issueRequest_illegal {q : DWord} (h : ¬ legalWord q) (s : State) : issueRequest q s = illegalRequest s := by
  unfold issueRequest
  split
  · next i hi => exact absurd (decodeRequest_eq_ok_iff.1 hi).legalWord h
  · rfl

theorem offerRequest_ready {q : DWord} {s popped : State} (h : s.pend.valid = false) :
    offerRequest q s popped = issueRequest q popped := by
  simp [offerRequest, h]

theorem offerRequest_busy {q : DWord} {s popped : State} (h : s.pend.valid = true) :
    offerRequest q s popped = .next s := by
  simp [offerRequest, h]

/-- Settles O6: a word that meets no row does not decode, and the answer to an illegal word is the response alone. -/
theorem illegalRequestAnswersBadRequest : Obligations.IllegalRequestAnswersBadRequest := by
  refine ⟨by unfold legalWord; decide, ?_⟩
  intro s rest q ops h hready hillegal
  calc step s
    _ = offerRequest q { s with script := rest } (hostDone ops rest s) := step_hostDoes h
    _ = issueRequest q (hostDone ops rest s) := offerRequest_ready hready
    _ = illegalRequest (hostDone ops rest s) := issueRequest_illegal hillegal _
    _ = .next (answered 0x10 .badRequest (hostDone ops rest s)) := illegalRequest_ready hready

theorem startXfer_busy {b : Byte} {s : State} (h : s.pend.valid = true) : startXfer b s = .next s := onPort_busy h

theorem advanceTime_busy {dt : Word} {s : State} (h : s.pend.valid = true) : advanceTime dt s = .next s :=
  onPort_busy h

theorem execEncode_busy {cmd len : Byte} {s : State} (h : s.pend.valid = true) : execEncode cmd len s = .next s :=
  onPort_busy h

theorem execParse_busy {off n : Half} {s : State} (h : s.pend.valid = true) : execParse off n s = .next s :=
  onPort_busy h

/-- Every request instruction goes through the port, which holds it while another is outstanding. -/
theorem exec_request_busy {i : Instr} {s : State} (hi : isRequest i = true) (h : s.pend.valid = true) :
    exec i s = .next s := by
  cases i
  case encode => exact execEncode_busy h
  case parse => exact execParse_busy h
  case xfer | poll | eoc | pad => exact startXfer_busy h
  case advance | tsync => exact advanceTime_busy h
  all_goals cases hi

/-- Settles O7: the host's offer is held, and so is each of the eight request instructions. -/
theorem portHoldsRequestsWhileOneIsOutstanding : Obligations.PortHoldsRequestsWhileOneIsOutstanding := by
  refine ⟨fun s rest q ops h hbusy => (step_hostDoes h).trans (offerRequest_busy hbusy), fun s hbusy => ?_⟩
  have held (i : Instr) (hi : isRequest i = true) : exec i s = .next s := exec_request_busy hi hbusy
  exact ⟨fun _ _ => held _ rfl, fun _ _ => held _ rfl, fun _ => held _ rfl, fun _ => held _ rfl,
    held _ rfl, held _ rfl, held _ rfl, held _ rfl⟩

/-! ## Calls of the driver (45_host_protocol.md R213, R214, R220) -/

theorem callDriver_free {id : Byte} {latch : Bool} {p : List Byte} {s : State} (hp : p.length ≤ maxPayload)
    (hdriver : s.host.driver = none) (hscan : s.host.scan = none) :
    callDriver id latch p s = .next { s with host := { s.host with
      driver := some (DriverRun.start id p)
      session := { s.host.session with transferNoResponse := s.host.session.transferNoResponse || latch } } } := by
  simp [callDriver, Nat.not_lt.2 hp, hostBusy, hdriver, hscan]

theorem callDriver_busy {id : Byte} {latch : Bool} {p : List Byte} {s : State} (hp : p.length ≤ maxPayload)
    (h : s.host.driver ≠ none ∨ s.host.scan ≠ none) : callDriver id latch p s = .next s := by
  have hbusy : hostBusy s = true := by simpa [hostBusy, Option.isSome_iff_ne_none] using h
  simp [callDriver, Nat.not_lt.2 hp, hbusy]

theorem callDriver_tooLong {id : Byte} {latch : Bool} {p : List Byte} {s : State} (hp : maxPayload < p.length) :
    callDriver id latch p s = .refused (.payloadTooLong p.length) := if_pos hp

/-- Settles O49: the statement's list is the command table, and each of its rows is a call of the driver. -/
theorem commandStartsTheDriver : Obligations.CommandStartsTheDriver := by
  intro p s row hrow
  obtain ⟨cmd, hmem, rfl⟩ : ∃ cmd ∈ commandTable, (cmd.1, cmd.2 p) = row := List.mem_map.1 hrow
  obtain ⟨-, -, hexec⟩ := commandTable_row p cmd hmem
  rw [hexec]
  exact ⟨callDriver_free, callDriver_busy, callDriver_tooLong⟩

/-! ## `advance_time` (R85) -/

theorem exec_nameAdvance (dt : Word) (s : State) : exec (nameAdvance dt) s = exec (.advance dt) s := by
  unfold nameAdvance
  split_ifs with htsync
  · rw [htsync]; rfl
  · rfl

theorem issueRequest_advanceWord (dt : Word) (s : State) : issueRequest (advanceWord dt) s = exec (.advance dt) s := by
  have hdecode : decode (.request (advanceWord dt)) = .ok (nameAdvance dt) := decodeRequest_eq_ok_iff.2 (.advance dt)
  simp only [issueRequest, hdecode, exec_nameAdvance]

theorem offerAdvance_busy {num den : Nat} {s popped : State} (h : s.pend.valid = true) :
    offerAdvance num den s popped = .next s := by
  simp [offerAdvance, offerRequest_busy h]

/-- A number of ticks that fits the operand is offered as it is. -/
theorem offerAdvance_fits {num den : Nat} {s popped : State} {dt : Word} (h : s.pend.valid = false)
    (hdt : dt.toNat = ticksOfSeconds s.params.tsRes num den) :
    offerAdvance num den s popped = exec (.advance dt) popped := by
  unfold offerAdvance
  rw [← hdt, if_pos dt.isLt, offerRequest_ready h, BitVec.ofNat_toNat, BitVec.setWidth_eq, issueRequest_advanceWord]

/-- A number of ticks that does not fit uses up a free value. -/
theorem offerAdvance_long {num den : Nat} {s popped : State} (h : s.pend.valid = false)
    (hlong : 2 ^ 32 ≤ ticksOfSeconds s.params.tsRes num den) :
    offerAdvance num den s popped =
      exec (.advance (Config.longAdvance s.freeDraws)) { popped with freeDraws := popped.freeDraws + 1 } := by
  unfold offerAdvance
  rw [if_neg (Nat.not_lt.2 hlong), offerRequest_ready h, issueRequest_advanceWord]

/-- Settles O59: the host's step is the offer, which is held, fits or draws a free value. -/
theorem hostAdvancesBySeconds : Obligations.HostAdvancesBySeconds := by
  intro s rest num den ops h
  have hstep : step s = offerAdvance num den { s with script := rest } (hostDone ops rest s) := step_hostDoes h
  rw [hstep]
  exact ⟨fun hbusy => offerAdvance_busy hbusy, fun _ hready hdt => offerAdvance_fits hready hdt,
    fun hready hlong => ⟨_, offerAdvance_long hready hlong⟩⟩

end Sys2Proof.Machine
end

section
/-! The family of 40_frame_codec.md, first part: the checksum, ENCODE, the codec in every link state, and where PARSE
ends short of a frame. -/

namespace Sys2Proof.Machine

open Sys2Proof.Claims

/-! ## The checksum (R120, R121) -/

theorem toNat_csum (c r1 r2 len : Byte) (p : List Byte) :
    (csum c r1 r2 len p).toNat = windowSum c r1 r2 len p % 65536 :=
  BitVec.toNat_ofNat _ _

/-- Adding bytes one by one in 16 bits adds their sum, reduced once. -/
theorem foldl_add_bytes (p : List Byte) (acc : Half) :
    p.foldl (fun acc b => acc + b.setWidth 16) acc = acc + BitVec.ofNat 16 (p.map BitVec.toNat).sum := by
  induction p generalizing acc with
  | nil => simp
  | cons b p ih =>
    rw [List.foldl_cons, ih, List.map_cons, List.sum_cons, BitVec.ofNat_add, BitVec.ofNat_toNat, BitVec.add_assoc]

/-- Settles O10: the fold reduces at each addition what the checksum reduces at the end. -/
theorem checksumIsTheWrappingSum : Obligations.ChecksumIsTheWrappingSum := by
  intro c r1 r2 len p
  refine ⟨toNat_csum c r1 r2 len p, ?_⟩
  rw [foldl_add_bytes, csum]
  simp only [BitVec.ofNat_add, BitVec.ofNat_toNat]

theorem sum_bytes_le (p : List Byte) : (p.map BitVec.toNat).sum ≤ p.length * 255 := by
  have hbyte : ∀ x ∈ p.map BitVec.toNat, x ≤ 255 := by
    intro x hx
    obtain ⟨b, -, rfl⟩ := List.mem_map.1 hx
    exact Nat.le_of_lt_succ b.isLt
  simpa using List.sum_le_card_nsmul _ _ hbyte

/-- The payload sum is largest with 255 bytes of 255, beside two or four further window bytes. -/
theorem windowSum_le {c r1 r2 len : Byte} {p : List Byte} (hp : p.length = len.toNat) :
    windowSum c r1 r2 len p ≤ 65535 + r1.toNat + r2.toNat := by
  have hsum := sum_bytes_le p
  have hc : c.toNat < 256 := c.isLt
  have hlen : len.toNat < 256 := len.isLt
  unfold windowSum; omega

/-- Settles O11: the bound for any reserved bytes, taken at zero, and the window of bytes 0xFF that reaches it. -/
theorem encoderChecksumNeverWraps : Obligations.EncoderChecksumNeverWraps := by
  have hfull : windowSum 0xFF 0xFF 0xFF 0xFF (List.replicate 255 0xFF) = 66045 := by
    rw [windowSum, List.map_replicate, List.sum_replicate]; rfl
  refine ⟨fun c len p hp => ?_, fun c r1 r2 len p hp => ?_, hfull, ?_⟩
  · have hle : windowSum c 0 0 len p ≤ 65535 := windowSum_le hp
    exact ⟨hle, by rw [toNat_csum]; exact Nat.mod_eq_of_lt (Nat.lt_succ_of_le hle)⟩
  · have hle := windowSum_le (c := c) (r1 := r1) (r2 := r2) hp
    have h1 : r1.toNat < 256 := r1.isLt
    have h2 : r2.toNat < 256 := r2.isLt
    omega
  · apply BitVec.eq_of_toNat_eq
    rw [toNat_csum, hfull]; rfl

/-! ## ENCODE (R122) -/

/-- Settles O8: the frame of the statement is the one the model emits. -/
theorem encodeResult : Obligations.EncodeResult :=
  fun _ _ _ _ hv hp => exec_encode_written hv hp

theorem csumHi_csum (c r1 r2 len : Byte) (p : List Byte) :
    csumHi (csum c r1 r2 len p) = BitVec.ofNat 8 (windowSum c r1 r2 len p / 256) := by
  apply BitVec.eq_of_toNat_eq
  rw [csumHi, BitVec.extractLsb'_toNat, toNat_csum, BitVec.toNat_ofNat, Nat.shiftRight_eq_div_pow]
  omega

theorem csumLo_csum (c r1 r2 len : Byte) (p : List Byte) :
    csumLo (csum c r1 r2 len p) = BitVec.ofNat 8 (windowSum c r1 r2 len p % 256) := by
  apply BitVec.eq_of_toNat_eq
  rw [csumLo, BitVec.extractLsb'_toNat, toNat_csum, BitVec.toNat_ofNat, Nat.shiftRight_zero]
  omega

/-- The emitted frame by index: header, payload, checksum. -/
theorem getElem?_encodedFrame {cmd len : Byte} {p : List Byte} (hp : p.length = len.toNat) :
    (∀ a, a < 6 → (encodedFrame cmd len p)[a]? = [0x99, 0x66, cmd, 0x00, 0x00, len][a]?) ∧
    (∀ k, k < len.toNat → (encodedFrame cmd len p)[6 + k]? = p[k]?) ∧
    (encodedFrame cmd len p)[6 + len.toNat]? = some (csumHi (csum cmd 0 0 len p)) ∧
    (encodedFrame cmd len p)[7 + len.toNat]? = some (csumLo (csum cmd 0 0 len p)) := by
  have hframe : encodedFrame cmd len p = [0x99, 0x66, cmd, 0x00, 0x00, len] ++
      (p ++ [csumHi (csum cmd 0 0 len p), csumLo (csum cmd 0 0 len p)]) := rfl
  rw [hframe]
  refine ⟨fun a ha => List.getElem?_append_left ha, fun k hk => ?_, ?_, ?_⟩
  · rw [List.getElem?_append_right (by simp)]
    simp [List.getElem?_append_left, hp, hk]
  · rw [List.getElem?_append_right (by simp)]
    simp [hp]
  · rw [show 7 + len.toNat = 6 + (p.length + 1) by omega, List.getElem?_append_right (by simp)]
    simp

/-- Settles O9: a read inside the write gives the emitted frame's byte, and every other read is as before. -/
theorem encodeStoresTheFrameOnly : Obligations.EncodeStoresTheFrameOnly := by
  intro cmd len s t p hv hp h
  rw [exec_encode_written hv hp] at h
  cases h
  obtain ⟨hlen, hpayload⟩ := Mem.bytes_eq_some_iff.1 hp
  have hsize : (encodedFrame cmd len p).length = 8 + len.toNat := by rw [encodedFrame_length, hlen]
  have hread : ∀ a, a < 8 + len.toNat →
      (encodeAnswered cmd len p s).obuf.byte a = (encodedFrame cmd len p)[a]? := by
    intro a ha
    change (s.obuf.setBytes 0 (encodedFrame cmd len p)).byte a = _
    simpa using Mem.byte_setBytes_inside s.obuf (i := 0) (hsize ▸ ha)
  obtain ⟨hheader, hbody, hhi, hlo⟩ := getElem?_encodedFrame (cmd := cmd) hlen
  refine ⟨fun a ha => ?_, fun k hk => ?_, ?_, ?_, fun a ha => ?_, fun _ => ⟨rfl, rfl⟩⟩
  · rw [hread a (by omega), hheader a ha]
  · rw [hread _ (by omega), hbody k hk, ← hpayload k hk, Nat.zero_add]
  · rw [hread _ (by omega), hhi, csumHi_csum]
  · rw [hread _ (by omega), hlo, csumLo_csum]
  · exact Mem.byte_setBytes_outside s.obuf (by omega)

/-! ## The codec in every link state (R122, R292) -/

/-- The same result with another `LSTATE`. -/
def relink (l : LinkState) : Result → Result
  | .next t => .next { t with lstate := l }
  | .fault f => .fault f
  | .refused r => .refused r

theorem exec_encode_relink (cmd len : Byte) (l : LinkState) (s : State) :
    exec (.encode cmd len) { s with lstate := l } = relink l (exec (.encode cmd len) s) := by
  change execEncode cmd len _ = relink l (execEncode cmd len s)
  cases hv : s.pend.valid with
  | true => rw [execEncode_busy hv, execEncode_busy (by exact hv)]; rfl
  | false =>
    rw [execEncode, execEncode, onPort_ready hv, onPort_ready (by exact hv)]
    simp only [accept_pbuf]
    cases s.pbuf.bytes 0 len.toNat <;> rfl

theorem exec_parse_relink (off n : Half) (l : LinkState) (s : State) :
    exec (.parse off n) { s with lstate := l } = relink l (exec (.parse off n) s) := by
  change execParse off n _ = relink l (execParse off n s)
  cases hv : s.pend.valid with
  | true => rw [execParse_busy hv, execParse_busy (by exact hv)]; rfl
  | false =>
    rw [execParse, execParse, onPort_ready hv, onPort_ready (by exact hv)]
    simp only [accept_params, accept_ibuf]
    cases parseAt s.params.ibufSize s.ibuf off.toNat n.toNat <;> rfl

/-- Settles O19: each codec instruction commutes with a change of `LSTATE`. -/
theorem codecIgnoresTheLink : Obligations.CodecIgnoresTheLink := by
  intro s l i hi
  have hlink : exec i { s with lstate := l } = relink l (exec i s) := by
    rcases hi with ⟨cmd, len, rfl⟩ | ⟨off, n, rfl⟩
    · exact exec_encode_relink cmd len l s
    · exact exec_parse_relink off n l s
  exact ⟨fun t h => by rw [hlink, h]; rfl, fun f h => by rw [hlink, h]; rfl⟩

/-! ## Where PARSE ends short of a frame (R124 to R128) -/

theorem parseAt_outside {size : Nat} {m : Mem} {o n : Nat} (h : n > size ∨ o > n) :
    parseAt size m o n = .ends .badRequest := if_pos h

/-- Settles O14: the bounds are tested before any byte is read. -/
theorem parseChecksItsBounds : Obligations.ParseChecksItsBounds :=
  fun _ _ _ hv h => exec_parse_ends hv (parseAt_outside h)

theorem parseAt_short {size : Nat} {m : Mem} {o n : Nat} (hn : n ≤ size) (ho : o ≤ n) (h : o + 2 > n) :
    parseAt size m o n = .ends .noMatch := by
  rw [parseAt, if_neg (by omega), if_pos h]

theorem Mem.bytes_two {m : Mem} {i : Nat} {b0 b1 : Byte} (h0 : m.byte i = some b0) (h1 : m.byte (i + 1) = some b1) :
    m.bytes i 2 = some [b0, b1] := by
  simp [Mem.bytes_succ, h0, h1]

theorem parseAt_otherBytes {size : Nat} {m : Mem} {o n : Nat} {b0 b1 : Byte} (hn : n ≤ size) (ho : o + 2 ≤ n)
    (h0 : m.byte o = some b0) (h1 : m.byte (o + 1) = some b1) (h : ¬ (b0 = 0x99 ∧ b1 = 0x66)) :
    parseAt size m o n = .ends .noMatch := by
  have hne : [b0, b1] ≠ magic := by simpa [magic] using h
  rw [parseAt, if_neg (by omega), if_neg (by omega), Mem.bytes_two h0 h1]
  exact if_pos hne

/-- Settles O15: there is no marker where two bytes are missing, and none where they differ from it. -/
theorem parseDetectsTheMagic : Obligations.ParseDetectsTheMagic :=
  fun _ _ _ hv hn ho => ⟨fun h => exec_parse_ends hv (parseAt_short hn ho h),
    fun _ _ h2 h0 h1 h => exec_parse_ends hv (parseAt_otherBytes hn h2 h0 h1 h)⟩

/-- With the marker at the offset the parse goes on to the header. -/
theorem parseAt_magic {size : Nat} {m : Mem} {o n : Nat} (hn : n ≤ size) (ho : o + 2 ≤ n)
    (h : m.bytes o 2 = some magic) :
    parseAt size m o n = if o + 6 > n then .ends .incomplete else parseBody m o n := by
  rw [parseAt, if_neg (by omega), if_neg (by omega), h]
  exact if_neg (not_not.2 rfl)

theorem parseBody_cut {m : Mem} {o n : Nat} {len : Byte} (hlen : m.byte (o + 5) = some len)
    (h : o + 10 + len.toNat > n) : parseBody m o n = .ends .incomplete := by
  rw [parseBody, hlen]
  exact if_pos h

/-- Settles O16: the header is cut, or the frame is. -/
theorem parseIncompleteFrame : Obligations.ParseIncompleteFrame := by
  intro off n s hv hn ho h0 h1
  have hgo := parseAt_magic (m := s.ibuf) hn ho (Mem.bytes_two h0 h1)
  refine ⟨fun hcut => exec_parse_ends (st := .incomplete) hv ?_,
    fun len hheader hlen hcut => exec_parse_ends (st := .incomplete) hv ?_⟩
  · rw [hgo, if_pos hcut]
  · rw [hgo, if_neg (by omega), parseBody_cut hlen hcut]

end Sys2Proof.Machine
end

section
/-! The family of 40_frame_codec.md, second part: a complete frame in the buffer, what PARSE reports of it, and what it
reports of the frame with one byte changed. -/

namespace Sys2Proof.Machine

open Sys2Proof.Claims

/-! ## Bulk reads, taken apart and changed (R60) -/

theorem Mem.bytes_cons_iff {m : Mem} {i n : Nat} {b : Byte} {bs : List Byte} :
    m.bytes i (n + 1) = some (b :: bs) ↔ m.byte i = some b ∧ m.bytes (i + 1) n = some bs := by
  rw [Mem.bytes_succ]
  cases m.byte i <;> simp [and_comm]

theorem Mem.bytes_append_iff {m : Mem} {i n k : Nat} {bs cs : List Byte} (hl : bs.length = n) :
    m.bytes i (n + k) = some (bs ++ cs) ↔ m.bytes i n = some bs ∧ m.bytes (i + n) k = some cs := by
  refine ⟨fun h => ?_, fun ⟨hb, hc⟩ => Mem.bytes_add hb hc⟩
  subst hl
  induction bs generalizing i with
  | nil => simpa using h
  | cons b bs ih =>
    rw [List.length_cons, Nat.succ_add, List.cons_append, Mem.bytes_cons_iff] at h
    obtain ⟨hbyte, hrest⟩ := h
    obtain ⟨hbs, hcs⟩ := ih hrest
    have hplace : i + (b :: bs).length = i + 1 + bs.length := by rw [List.length_cons]; omega
    exact ⟨Mem.bytes_cons_iff.2 ⟨hbyte, hbs⟩, hplace ▸ hcs⟩

/-- Writing one byte inside a stretch changes that byte of a bulk read. -/
theorem Mem.bytes_setByte {m : Mem} {i n k : Nat} {bs : List Byte} (h : m.bytes i n = some bs) (hk : k < n) (v : Byte) :
    (m.setByte (i + k) v).bytes i n = some (bs.set k v) := by
  obtain ⟨hl, hb⟩ := Mem.bytes_eq_some_iff.1 h
  refine Mem.bytes_eq_some_iff.2 ⟨by rw [List.length_set, hl], fun j hj => ?_⟩
  by_cases hjk : j = k
  · subst hjk; rw [Mem.byte_setByte_same, List.getElem?_set_self (hl ▸ hj)]
  · rw [Mem.byte_setByte_other _ _ (by omega), hb j hj, List.getElem?_set_ne (Ne.symm hjk)]

/-! ## A frame and its registers (R97, R123, R129 to R132) -/

/-- The bytes of a complete frame after the magic, named (R97). -/
structure Frame where
  cmd : Byte
  r1 : Byte
  r2 : Byte
  len : Byte
  payload : List Byte
  hi : Byte
  lo : Byte
  dev : Byte
  ack : Byte

namespace Frame

/-- The frame on the wire. -/
def bytes (f : Frame) : List Byte := wireFrame f.cmd f.r1 f.r2 f.len f.payload f.hi f.lo f.dev f.ack

/-- The checksum of the frame's window (R120). -/
def computed (f : Frame) : Half := csum f.cmd f.r1 f.r2 f.len f.payload

/-- The checksum that the frame transmits (R63). -/
def transmitted (f : Frame) : Half := csumOfBytes f.hi f.lo

/-- The registers that PARSE writes for the frame at offset `o`. -/
def regs (f : Frame) (o : Nat) : ParseRegs where
  find := findings f.r1 f.r2 f.computed f.transmitted
  cmd := f.cmd
  r1 := f.r1
  r2 := f.r2
  len := f.len
  csumCalc := f.computed
  csumRx := f.transmitted
  dev := f.dev
  ack := f.ack
  consumed := BitVec.ofNat 16 (10 + f.len.toNat)
  pbase := BitVec.ofNat 16 (o + 6)

/-- The buffer holds the whole frame at offset `o`. -/
def LiesAt (f : Frame) (m : Mem) (o : Nat) : Prop := m.bytes o (10 + f.len.toNat) = some f.bytes

theorem length_bytes (f : Frame) : f.bytes.length = 10 + f.payload.length := by
  simp [bytes, wireFrame]; omega

theorem LiesAt.length_payload {f : Frame} {m : Mem} {o : Nat} (h : f.LiesAt m o) : f.payload.length = f.len.toNat := by
  have := Mem.bytes_length h
  rw [length_bytes] at this; omega

/-- A frame in the buffer: its header, its payload, its trailer. -/
theorem liesAt_iff_stretches {f : Frame} {m : Mem} {o : Nat} (hl : f.payload.length = f.len.toNat) :
    f.LiesAt m o ↔ m.bytes o 6 = some [0x99, 0x66, f.cmd, f.r1, f.r2, f.len] ∧
      m.bytes (o + 6) f.len.toNat = some f.payload ∧
      m.bytes (o + 6 + f.len.toNat) 4 = some [f.hi, f.lo, f.dev, f.ack] := by
  have hcount : 10 + f.len.toNat = 6 + (f.len.toNat + 4) := by omega
  have hbytes : f.bytes = [0x99, 0x66, f.cmd, f.r1, f.r2, f.len] ++ (f.payload ++ [f.hi, f.lo, f.dev, f.ack]) :=
    List.append_assoc _ _ _
  rw [LiesAt, hcount, hbytes, Mem.bytes_append_iff (n := 6) rfl, Mem.bytes_append_iff hl]

/-- A frame in the buffer, field by field. -/
theorem liesAt_iff {f : Frame} {m : Mem} {o : Nat} : f.LiesAt m o ↔
    m.bytes o 2 = some magic ∧
      m.byte (o + 2) = some f.cmd ∧ m.byte (o + 3) = some f.r1 ∧ m.byte (o + 4) = some f.r2 ∧
      m.byte (o + 5) = some f.len ∧ m.bytes (o + 6) f.len.toNat = some f.payload ∧
      m.byte (o + 6 + f.len.toNat) = some f.hi ∧ m.byte (o + 7 + f.len.toNat) = some f.lo ∧
      m.byte (o + 8 + f.len.toNat) = some f.dev ∧ m.byte (o + 9 + f.len.toNat) = some f.ack := by
  have hplace (k : Nat) : o + k + f.len.toNat = o + f.len.toNat + k := Nat.add_right_comm o k _
  have hfields (hl : f.payload.length = f.len.toNat) := liesAt_iff_stretches (m := m) (o := o) hl
  simp only [hplace, magic, Mem.bytes_cons_iff, Mem.bytes_zero, Nat.add_assoc, Nat.reduceAdd, and_true, and_assoc]
    at hfields ⊢
  refine ⟨fun h => (hfields h.length_payload).1 h, fun h => ?_⟩
  obtain ⟨-, -, -, -, -, -, hp, -⟩ := id h
  exact (hfields (Mem.bytes_length hp)).2 h

theorem LiesAt.parseFields_eq {f : Frame} {m : Mem} {o : Nat} (h : f.LiesAt m o) :
    parseFields m o f.len = some (f.regs o) := by
  obtain ⟨-, hcmd, hr1, hr2, -, hp, hhi, hlo, hdev, hack⟩ := liesAt_iff.1 h
  rw [parseFields, hcmd, hr1, hr2, hp, hhi, hlo, hdev, hack]; rfl

/-- PARSE matches exactly the frames that lie at the offset inside the supplied bytes. -/
theorem parseAt_eq_frame_iff {size : Nat} {m : Mem} {o n : Nat} {regs : ParseRegs} :
    parseAt size m o n = .frame regs ↔
      n ≤ size ∧ ∃ f : Frame, f.LiesAt m o ∧ o + 10 + f.len.toNat ≤ n ∧ regs = f.regs o := by
  constructor
  · intro h
    obtain ⟨hn, hmagic, len, hlen, hfits, hregs⟩ := parseAt_frame h
    obtain ⟨p, hi, lo, hcmd, hr1, hr2, hp, hhi, hlo, hdev, hack, rfl, -⟩ := parseFields_some hregs
    have hf : LiesAt ⟨regs.cmd, regs.r1, regs.r2, regs.len, p, hi, lo, regs.dev, regs.ack⟩ m o :=
      liesAt_iff.2 ⟨hmagic, hcmd, hr1, hr2, hlen, hp, hhi, hlo, hdev, hack⟩
    exact ⟨hn, _, hf, hfits, Option.some.inj (hregs.symm.trans hf.parseFields_eq)⟩
  · rintro ⟨hn, f, hf, hfits, rfl⟩
    obtain ⟨hmagic, -, -, -, hlen, -⟩ := liesAt_iff.1 hf
    rw [parseAt_magic hn (by omega) hmagic, if_neg (by omega), parseBody, hlen]
    simp only [hf.parseFields_eq]
    exact if_neg (by omega)

/-- The state in which PARSE has answered `OK` for the frame at offset `o`. -/
def answer (f : Frame) (o : Nat) (s : State) : State := answered 0x00 .ok { s with parse := f.regs o }

theorem LiesAt.exec_parse {f : Frame} {off n : Half} {s : State} (h : f.LiesAt s.ibuf off.toNat)
    (hv : s.pend.valid = false) (hn : n.toNat ≤ s.params.ibufSize) (hfits : off.toNat + 10 + f.len.toNat ≤ n.toNat) :
    exec (.parse off n) s = .next (f.answer off.toNat s) :=
  exec_parse_frame hv (parseAt_eq_frame_iff.2 ⟨hn, f, h, hfits, rfl⟩)

/-- A ready port answers `OK` to PARSE only for a frame. -/
theorem exec_parse_ok {off n : Half} {s t : State} (hv : s.pend.valid = false)
    (h : exec (.parse off n) s = .next t) (hok : t.respHist = s.respHist ++ [.ok]) :
    n.toNat ≤ s.params.ibufSize ∧ ∃ f : Frame, f.LiesAt s.ibuf off.toNat ∧
      off.toNat + 10 + f.len.toNat ≤ n.toNat ∧ t = f.answer off.toNat s := by
  rcases exec_parse_next h hv with ⟨st, hp, rfl⟩ | ⟨regs, hp, rfl⟩
  · exact absurd (by simpa using hok) (parseAt_ends_ne_ok hp)
  · obtain ⟨hn, f, hf, hfits, rfl⟩ := parseAt_eq_frame_iff.1 hp
    exact ⟨hn, f, hf, hfits, rfl⟩

end Frame

/-! ## A complete frame, and what ENCODE emitted (R123, R134) -/

theorem toNat_csumOfBytes (hi lo : Byte) : (csumOfBytes hi lo).toNat = hi.toNat * 256 + lo.toNat :=
  toNat_append_eq_add hi lo

theorem csumOfBytes_csumHi_csumLo (c : Half) : csumOfBytes (csumHi c) (csumLo c) = c := by
  apply BitVec.eq_of_toNat_eq
  have hc : c.toNat < 65536 := c.isLt
  rw [toNat_csumOfBytes, csumHi, csumLo, BitVec.extractLsb'_toNat, BitVec.extractLsb'_toNat,
    Nat.shiftRight_eq_div_pow, Nat.shiftRight_zero]
  omega

/-- The findings of a frame, said of its bytes (R129, R130). -/
theorem findings_csum (c r1 r2 len : Byte) (p : List Byte) (hi lo : Byte) :
    findings r1 r2 (csum c r1 r2 len p) (csumOfBytes hi lo) =
      BitVec.ofBool (r1 ≠ 0 ∨ r2 ≠ 0) ++
        BitVec.ofBool (windowSum c r1 r2 len p % 65536 ≠ hi.toNat * 256 + lo.toNat) := by
  have hcsum : csumMismatch (csum c r1 r2 len p) (csumOfBytes hi lo) =
      decide (windowSum c r1 r2 len p % 65536 ≠ hi.toNat * 256 + lo.toNat) := by
    rw [csumMismatch, ← toNat_csum, ← toNat_csumOfBytes, Bool.eq_iff_iff, bne_iff_ne, decide_eq_true_iff, ne_eq, ne_eq,
      BitVec.toNat_inj]
  have hreserved : reservedNonzero r1 r2 = decide (r1 ≠ 0 ∨ r2 ≠ 0) := by
    rw [reservedNonzero, Bool.eq_iff_iff, Bool.or_eq_true, bne_iff_ne, bne_iff_ne, decide_eq_true_iff]
  rw [findings, hcsum, hreserved]

/-- Settles O13: the registers of the statement are those of the frame. -/
theorem parseMatchedFrame : Obligations.ParseMatchedFrame := by
  intro off n s cmd r1 r2 len hi lo dev ack p hv hn hfits _ h
  have hf : Frame.LiesAt ⟨cmd, r1, r2, len, p, hi, lo, dev, ack⟩ s.ibuf off.toNat := h
  have hrx : BitVec.ofNat 16 (hi.toNat * 256 + lo.toNat) = csumOfBytes hi lo := by
    rw [← toNat_csumOfBytes, BitVec.ofNat_toNat, BitVec.setWidth_eq]
  rw [hf.exec_parse hv hn hfits, ← findings_csum, hrx]; rfl

/-- The frame that ENCODE emits, with the two trailer bytes that the other side adds. -/
def Frame.emitted (cmd len : Byte) (p : List Byte) (dev ack : Byte) : Frame :=
  ⟨cmd, 0, 0, len, p, csumHi (csum cmd 0 0 len p), csumLo (csum cmd 0 0 len p), dev, ack⟩

theorem Frame.bytes_emitted (cmd len : Byte) (p : List Byte) (dev ack : Byte) :
    (emitted cmd len p dev ack).bytes = encodedFrame cmd len p ++ [dev, ack] := by
  simp [emitted, bytes, wireFrame, encodedFrame, magic]

theorem Frame.find_emitted (cmd len : Byte) (p : List Byte) (dev ack : Byte) (o : Nat) :
    ((emitted cmd len p dev ack).regs o).find = 0 := by
  change findings 0 0 (csum cmd 0 0 len p) (csumOfBytes (csumHi _) (csumLo _)) = 0
  rw [csumOfBytes_csumHi_csumLo, findings, csumMismatch, bne_self_eq_false]; rfl

theorem bytes_obuf_encodeAnswered {cmd len : Byte} {p : List Byte} (s : State) (hp : p.length = len.toNat) :
    (encodeAnswered cmd len p s).obuf.bytes 0 (8 + len.toNat) = some (encodedFrame cmd len p) := by
  rw [← hp, ← encodedFrame_length cmd len p]
  exact Mem.bytes_setBytes s.obuf 0 _

/-- Without the trailer the emitted bytes end short of the frame. -/
theorem exec_parse_emitted_cut {cmd len : Byte} {p : List Byte} {u : State} {off n : Half}
    (hv : u.pend.valid = false) (hn : n.toNat ≤ u.params.ibufSize) (hend : n.toNat = off.toNat + 8 + len.toNat)
    (hb : u.ibuf.bytes off.toNat (8 + len.toNat) = some (encodedFrame cmd len p)) :
    exec (.parse off n) u = .next (answered 0x02 .incomplete u) := by
  obtain ⟨-, hbyte⟩ := Mem.bytes_eq_some_iff.1 hb
  obtain ⟨-, hcut⟩ := parseIncompleteFrame off n u hv hn (by omega) (hbyte 0 (by omega)) (hbyte 1 (by omega))
  exact hcut len (by omega) (hbyte 5 (by omega)) (by omega)

/-- Settles O20: the emitted bytes and a trailer are a frame whose two checksums agree; without the trailer they are
cut. -/
theorem encodeParseRoundTrip : Obligations.EncodeParseRoundTrip := by
  intro cmd len s p hv hp
  refine ⟨_, encodedFrame cmd len p, exec_encode_written hv hp, bytes_obuf_encodeAnswered s (Mem.bytes_length hp),
    fun u off n huv hn => ⟨fun dev ack hfits hb => ?_, exec_parse_emitted_cut huv hn⟩⟩
  have hf : (Frame.emitted cmd len p dev ack).LiesAt u.ibuf off.toNat :=
    hb.trans (congrArg some (Frame.bytes_emitted cmd len p dev ack).symm)
  obtain ⟨-, -, -, -, -, hpayload, -⟩ := Frame.liesAt_iff.1 hf
  have hlen : len.toNat < 256 := len.isLt
  have hnlt : n.toNat < 65536 := n.isLt
  have hpbase : (BitVec.ofNat 16 (off.toNat + 6)).toNat = off.toNat + 6 :=
    (BitVec.toNat_ofNat _ _).trans (Nat.mod_eq_of_lt (by omega))
  refine ⟨_, hf.exec_parse huv hn hfits, rfl, rfl, rfl, ?_, Frame.find_emitted cmd len p dev ack _, rfl, rfl,
    (BitVec.toNat_ofNat _ _).trans (Nat.mod_eq_of_lt (by omega))⟩
  change u.ibuf.bytes (BitVec.ofNat 16 (off.toNat + 6)).toNat len.toNat = some p
  rw [hpbase]; exact hpayload

/-! ## One byte of a frame changed (R135) -/

/-- Two windows whose sums differ by the difference of two unequal bytes have different checksums. -/
theorem csum_ne_of_byte_ne {c r1 r2 len c' r1' r2' len' b v : Byte} {p p' : List Byte} (hv : v ≠ b)
    (h : windowSum c' r1' r2' len' p' + b.toNat = windowSum c r1 r2 len p + v.toNat) :
    csum c' r1' r2' len' p' ≠ csum c r1 r2 len p := by
  intro heq
  have hmod := congrArg BitVec.toNat heq
  rw [toNat_csum, toNat_csum] at hmod
  have hne : v.toNat ≠ b.toNat := fun e => hv (BitVec.eq_of_toNat_eq e)
  have hvlt : v.toNat < 256 := v.isLt
  have hblt : b.toNat < 256 := b.isLt
  omega

theorem sum_bytes_set {p : List Byte} {k : Nat} {b : Byte} (hb : p[k]? = some b) (v : Byte) :
    ((p.set k v).map BitVec.toNat).sum + b.toNat = (p.map BitVec.toNat).sum + v.toNat := by
  induction p generalizing k with
  | nil => cases hb
  | cons c p ih =>
    cases k with
    | zero => cases hb; simp only [List.set_cons_zero, List.map_cons, List.sum_cons]; omega
    | succ k =>
      have := ih (k := k) hb
      simp only [List.set_cons_succ, List.map_cons, List.sum_cons]; omega

theorem flip_ne {k : Nat} (hk : k < 8) (b : Byte) : b ^^^ (1#8 <<< k) ≠ b := by
  intro h
  have hbit := congrArg (fun x : Byte => x.getLsbD k) h
  simp [hk] at hbit

theorem csumOfBytes_inj {hi lo hi' lo' : Byte} (h : csumOfBytes hi lo = csumOfBytes hi' lo') : hi = hi' ∧ lo = lo' := by
  have hnat := congrArg BitVec.toNat h
  rw [toNat_csumOfBytes, toNat_csumOfBytes] at hnat
  have hlo : lo.toNat < 256 := lo.isLt
  have hlo' : lo'.toNat < 256 := lo'.isLt
  exact ⟨BitVec.eq_of_toNat_eq (by omega), BitVec.eq_of_toNat_eq (by omega)⟩

namespace Frame

/-- A frame of the same length that differs in one byte lies where that byte has been written. -/
theorem LiesAt.setByte {f g : Frame} {m : Mem} {o a k : Nat} {v : Byte} (h : f.LiesAt m o) (ha : a = o + k)
    (hk : k < 10 + f.len.toNat) (hg : g.bytes = f.bytes.set k v) (hlen : g.len = f.len) :
    g.LiesAt (m.setByte a v) o := by
  rw [LiesAt, hlen, hg, ha]
  exact Mem.bytes_setByte h hk v

theorem bytes_set_payload {f : Frame} {k : Nat} (hk : k < f.payload.length) (v : Byte) :
    bytes { f with payload := f.payload.set k v } = f.bytes.set (6 + k) v := by
  simp [bytes, wireFrame, hk, Nat.add_comm 6]

/-- The four bytes after the payload, by index. -/
theorem bytes_set_trailer {f : Frame} (hl : f.payload.length = f.len.toNat) (v : Byte) :
    bytes { f with hi := v } = f.bytes.set (6 + f.len.toNat) v ∧
    bytes { f with lo := v } = f.bytes.set (7 + f.len.toNat) v ∧
    bytes { f with dev := v } = f.bytes.set (8 + f.len.toNat) v ∧
    bytes { f with ack := v } = f.bytes.set (9 + f.len.toNat) v := by
  simp [bytes, wireFrame, ← hl, Nat.add_comm _ f.payload.length]

/-- The `CSUM_MISMATCH` bit of a frame (R129). -/
theorem csumMismatch_regs (f : Frame) (o : Nat) :
    (f.regs o).find.getLsbD 0 = (f.computed != f.transmitted) := by
  change (BitVec.ofBool _ ++ BitVec.ofBool _).getLsbD 0 = _
  rw [BitVec.getLsbD_append]; simp [csumMismatch]

/-- An index among those of the window, length apart, and of the checksum, as the field it belongs to. -/
theorem place_cases {o a len : Nat}
    (h : a = o + 2 ∨ a = o + 3 ∨ a = o + 4 ∨ (o + 6 ≤ a ∧ a < o + 8 + len)) :
    a = o + 2 ∨ a = o + 3 ∨ a = o + 4 ∨ (∃ k, k < len ∧ a = o + 6 + k) ∨ a = o + 6 + len ∨ a = o + 7 + len := by
  by_cases hp : o + 6 ≤ a ∧ a < o + 6 + len
  · exact .inr (.inr (.inr (.inl ⟨a - (o + 6), by omega, by omega⟩)))
  · omega

/-- A change of one window byte other than the length changes the computed checksum alone; a change of a checksum byte
changes the transmitted one alone. -/
theorem LiesAt.exists_mismatch {f : Frame} {m : Mem} {o a : Nat} {b v : Byte} (h : f.LiesAt m o)
    (hclean : f.computed = f.transmitted) (hb : m.byte a = some b) (hv : v ≠ b)
    (ha : a = o + 2 ∨ a = o + 3 ∨ a = o + 4 ∨ (o + 6 ≤ a ∧ a < o + 8 + f.len.toNat)) :
    ∃ g : Frame, g.LiesAt (m.setByte a v) o ∧ g.len = f.len ∧ g.computed ≠ g.transmitted := by
  have hl := h.length_payload
  obtain ⟨-, hcmd, hr1, hr2, -, hp, hhi, hlo, -, -⟩ := liesAt_iff.1 h
  obtain ⟨-, hpbyte⟩ := Mem.bytes_eq_some_iff.1 hp
  obtain ⟨hbytesHi, hbytesLo, -, -⟩ := bytes_set_trailer hl v
  have hwindow {g : Frame} (ht : g.transmitted = f.transmitted) (hsum : windowSum g.cmd g.r1 g.r2 g.len g.payload +
      b.toNat = windowSum f.cmd f.r1 f.r2 f.len f.payload + v.toNat) : g.computed ≠ g.transmitted := by
    rw [ht, ← hclean]; exact csum_ne_of_byte_ne hv hsum
  have hchecksum {g : Frame} (hc : g.computed = f.computed) (hne : ¬ (f.hi = g.hi ∧ f.lo = g.lo)) :
      g.computed ≠ g.transmitted := by
    rw [hc, hclean]; exact fun e => hne (csumOfBytes_inj e)
  rcases place_cases ha with rfl | rfl | rfl | ⟨k, hk, rfl⟩ | rfl | rfl
  · refine ⟨{ f with cmd := v }, h.setByte rfl (by omega) rfl rfl, rfl, hwindow rfl ?_⟩
    cases hb.symm.trans hcmd
    simp only [windowSum]; omega
  · refine ⟨{ f with r1 := v }, h.setByte rfl (by omega) rfl rfl, rfl, hwindow rfl ?_⟩
    cases hb.symm.trans hr1
    simp only [windowSum]; omega
  · refine ⟨{ f with r2 := v }, h.setByte rfl (by omega) rfl rfl, rfl, hwindow rfl ?_⟩
    cases hb.symm.trans hr2
    simp only [windowSum]; omega
  · refine ⟨{ f with payload := f.payload.set k v }, h.setByte (Nat.add_assoc _ _ _) (by omega)
      (bytes_set_payload (hl ▸ hk) v) rfl, rfl, hwindow rfl ?_⟩
    have hsum := sum_bytes_set ((hpbyte k hk).symm.trans hb) v
    simp only [windowSum]; omega
  · refine ⟨{ f with hi := v }, h.setByte (Nat.add_assoc _ _ _) (by omega) hbytesHi rfl, rfl,
      hchecksum rfl fun e => hv ?_⟩
    exact e.1.symm.trans (Option.some.inj (hhi.symm.trans hb))
  · refine ⟨{ f with lo := v }, h.setByte (Nat.add_assoc _ _ _) (by omega) hbytesLo rfl, rfl,
      hchecksum rfl fun e => hv ?_⟩
    exact e.2.symm.trans (Option.some.inj (hlo.symm.trans hb))

end Frame

/-- Settles O21: the changed frame still lies there, with the two checksums apart. -/
theorem flippedBitButOfLengthIsReported : Obligations.FlippedBitButOfLengthIsReported := by
  intro off n s t a k b hv h hok hclean hk hb ha
  obtain ⟨hn, f, hf, hfits, rfl⟩ := Frame.exec_parse_ok hv h hok
  have heq : f.computed = f.transmitted := by
    have hbit := (f.csumMismatch_regs off.toNat).symm.trans hclean
    simpa using hbit
  obtain ⟨g, hg, hlen, hne⟩ := hf.exists_mismatch heq hb (flip_ne hk b) ha
  refine ⟨_, hg.exec_parse hv hn (by rw [hlen]; exact hfits), rfl, (g.csumMismatch_regs off.toNat).trans ?_⟩
  simpa using hne

/-- A changed magic byte is no marker any more (R125). -/
theorem exec_parse_changedMagic {off n : Half} {s : State} {a : Nat} {b v : Byte} (hv : s.pend.valid = false)
    (hn : n.toNat ≤ s.params.ibufSize) (ho : off.toNat + 2 ≤ n.toNat) (hmagic : s.ibuf.bytes off.toNat 2 = some magic)
    (hb : s.ibuf.byte a = some b) (hne : v ≠ b) (ha : a = off.toNat ∨ a = off.toNat + 1) :
    exec (.parse off n) { s with ibuf := s.ibuf.setByte a v } =
      .next (answered 0x01 .noMatch { s with ibuf := s.ibuf.setByte a v }) := by
  obtain ⟨-, hbyte⟩ := Mem.bytes_eq_some_iff.1 hmagic
  have h0 : s.ibuf.byte off.toNat = some 0x99 := hbyte 0 (by omega)
  have h1 : s.ibuf.byte (off.toNat + 1) = some 0x66 := hbyte 1 (by omega)
  obtain ⟨-, hother⟩ := parseDetectsTheMagic off n { s with ibuf := s.ibuf.setByte a v } hv hn (by omega)
  rcases ha with rfl | rfl
  · cases hb.symm.trans h0
    exact hother v 0x66 ho (Mem.byte_setByte_same _ _ _) ((Mem.byte_setByte_other _ _ (by omega)).trans h1)
      fun e => hne e.1
  · cases hb.symm.trans h1
    exact hother 0x99 v ho ((Mem.byte_setByte_other _ _ (by omega)).trans h0) (Mem.byte_setByte_same _ _ _)
      fun e => hne e.2

/-- Settles O22: the frame with another trailer byte lies in the changed buffer, and a changed magic is none. -/
theorem flippedTrailerOrMagicBit : Obligations.FlippedTrailerOrMagicBit := by
  intro off n s t a k b hv h hok hk hb
  obtain ⟨hn, f, hf, hfits, rfl⟩ := Frame.exec_parse_ok hv h hok
  obtain ⟨-, -, hdev, hack⟩ := Frame.bytes_set_trailer hf.length_payload (b ^^^ (1#8 <<< k))
  obtain ⟨hmagic, -⟩ := Frame.liesAt_iff.1 hf
  have hparse {g : Frame} (hg : g.LiesAt (s.ibuf.setByte a (b ^^^ (1#8 <<< k))) off.toNat) (hlen : g.len = f.len) :=
    Frame.LiesAt.exec_parse (s := { s with ibuf := s.ibuf.setByte a (b ^^^ (1#8 <<< k)) }) hg hv hn (hlen ▸ hfits)
  refine ⟨fun (ha : a = off.toNat + 8 + f.len.toNat) => ?_, fun (ha : a = off.toNat + 9 + f.len.toNat) => ?_,
    exec_parse_changedMagic hv hn (by omega) hmagic hb (flip_ne hk b)⟩
  · exact hparse (hf.setByte (ha.trans (Nat.add_assoc _ _ _)) (by omega) hdev rfl) rfl
  · exact hparse (hf.setByte (ha.trans (Nat.add_assoc _ _ _)) (by omega) hack rfl) rfl

end Sys2Proof.Machine
end

section
/-! The family of 41_byte_exchange.md, first part: what one request of the synchronizer and one inbound record do, and
the turns of the peer and of the timeout. -/

namespace Sys2Proof.Machine

open Sys2Proof.Claims

/-! ## The timestamp (R162, R179) -/

theorem stampOf_toNat (now offset : DWord) : (stampOf now offset).toNat = (now.toNat + offset.toNat) % 2 ^ 31 :=
  BitVec.toNat_ofNat _ _

/-- The 64-bit sum wraps at a multiple of the timestamp's period. -/
theorem stampOf_eq_setWidth_add (now offset : DWord) : stampOf now offset = (now + offset).setWidth 31 := by
  apply BitVec.eq_of_toNat_eq
  rw [stampOf_toNat, BitVec.toNat_setWidth, BitVec.toNat_add]
  omega

/-- Settles O26: within a period the remainder grows with the sum, and past one boundary it has lost a period. -/
theorem timestampFormulaAndOrder : Obligations.TimestampFormulaAndOrder := by
  refine ⟨fun now offset => ⟨stampOf_toNat now offset, stampOf_eq_setWidth_add now offset⟩, ?_⟩
  intro n1 n2 offset hlater
  have hnat : n1.toNat ≤ n2.toNat := BitVec.le_def.1 hlater
  rw [BitVec.le_def, BitVec.lt_def, stampOf_toNat, stampOf_toNat]
  exact ⟨fun hperiod => by omega, fun hcrossed hshort => by omega⟩

/-! ## XFER and ADVANCE in READY (R170, R178) -/

theorem xferRequest_eq_builtRecord (b ctrl : Byte) (ts : Stamp) :
    xferRequest b ctrl ts = builtRecord 0x68 b ctrl 0x00 ts := (builtRecord_eq_stampedRecord _ _ _ _ _).symm

theorem timeSync_eq_builtRecord (ts : Stamp) : timeSync ts = builtRecord 0x6A 0x00 0x00 0x00 ts :=
  (builtRecord_eq_stampedRecord _ _ _ _ _).symm

theorem startXfer_ready {b : Byte} {s : State} (hv : s.pend.valid = false) (hl : s.lstate = .ready) :
    startXfer b s = .next { send (xferRequest b s.params.ctrlReq (stampOf s.clock s.timeOffset)) (accept s) with
      xTs := stampOf s.clock s.timeOffset
      pend := { valid := true, tx := b, ts := stampOf s.clock s.timeOffset, t0 := s.clock } } := by
  rw [startXfer, onPort_ready hv]
  exact if_pos hl

theorem advanceTime_ready {dt : Word} {s : State} (hv : s.pend.valid = false) (hl : s.lstate = .ready) :
    advanceTime dt s = .next (respond .ok (send (timeSync (stampOf s.clock (s.timeOffset + dt.setWidth 64)))
      { accept s with timeOffset := s.timeOffset + dt.setWidth 64 })) := by
  rw [advanceTime, onPort_ready hv]
  exact if_pos hl

/-- Settles O23: the four instructions start an XFER of their byte. -/
theorem xferStartSendsTheRequest : Obligations.XferStartSendsTheRequest := by
  intro b i s hi hv hl
  have hexec : exec i s = startXfer b s := by
    rcases hi with rfl | ⟨rfl, rfl⟩ | ⟨rfl, rfl⟩ | ⟨rfl, rfl⟩ <;> rfl
  rw [hexec, startXfer_ready hv hl, stampAt_eq_stampOf, xferRequest_eq_builtRecord]
  rfl

/-- Settles O24: both instructions advance the time by their ticks. -/
theorem advanceSendsTheNewTime : Obligations.AdvanceSendsTheNewTime := by
  intro dt i s hi hv hl
  have hexec : exec i s = advanceTime dt s := by
    rcases hi with rfl | ⟨rfl, rfl⟩ <;> rfl
  refine ⟨s.timeOffset + dt.setWidth 64, ?sum, ?next⟩
  case sum => rw [BitVec.toNat_add, BitVec.toNat_setWidth_of_le (by decide)]
  case next =>
    rw [hexec, advanceTime_ready hv hl, stampAt_eq_stampOf, timeSync_eq_builtRecord]
    rfl

/-- Settles O27: TSYNC leaves the link, the slot and `CTRL_REQ` as they are, so both XFERs start (O23), and of the
state only the clock and `TIME_OFFSET` reach the timestamp. -/
theorem zeroAdvanceKeepsXferBytes : Obligations.ZeroAdvanceKeepsXferBytes := by
  intro b s t c c' hv hl ht
  obtain ⟨offset, -, htsync⟩ := advanceSendsTheNewTime 0 .tsync s (.inr ⟨rfl, rfl⟩) hv hl
  cases htsync.symm.trans ht
  exact ⟨_, _, _, _, xferStartSendsTheRequest b _ _ (.inl rfl) hv hl, xferStartSendsTheRequest b _ _ (.inl rfl) hv hl,
    rfl, rfl, rfl, rfl, rfl, rfl⟩

/-! ## Inbound records (R166, R167, R172, R180 to R185) -/

theorem receiving_eq_false_iff {s : State} :
    receiving s = false ↔ s.lstate ≠ .handshaking ∧ ¬ (s.lstate = .ready ∧ s.pend.valid = true) := by
  rw [← not_or, ← receiving_iff, Bool.not_eq_true]

theorem isVersionRecord_iff {r : Record} :
    isVersionRecord r = true ↔ r.code = 0x01 ∧ r.fieldB = 0x01 ∧ r.fieldC = 0x04 ∧ r.fieldD = 0x00 := by
  simp [isVersionRecord, and_assoc]

theorem processRecord_waiting {r : Record} {dispose : State → State} {s : State} (h : receiving s = false) :
    processRecord r dispose s = .next s := by
  simp [processRecord, h]

theorem processRecord_handshaking {r : Record} {dispose : State → State} {s : State} (hl : s.lstate = .handshaking) :
    processRecord r dispose s = .next (handshakeStep r (rxPop s)) := by
  simp [processRecord, receiving_iff.2 (.inl hl), hl]

/-- In READY a pending XFER lets each record have its own disposition. -/
theorem processRecord_pending {r : Record} {dispose : State → State} {s : State} (hl : s.lstate = .ready)
    (hv : s.pend.valid = true) : processRecord r dispose s = .next (dispose (rxPop s)) := by
  simp [processRecord, receiving_iff.2 (.inr ⟨hl, hv⟩), hl]

/-- Whatever its code, a record is processed as itself; the code picks the disposition only. -/
theorem exec_decodeRecord (r : Record) (s : State) :
    ∃ dispose, exec (decodeRecord r) s = processRecord r dispose s := by
  have asItself (code : Byte) (dispose : State → State) (hcode : r.code = code) :
      processRecord (mkRecord code r.fieldB r.fieldC r.fieldD r.ts) dispose s = processRecord r dispose s := by
    rw [← hcode, mkRecord_ts]
  unfold decodeRecord
  split_ifs with h01 h65 h68 h69 h6A h6C h6D
  · exact ⟨_, asItself 0x01 _ h01⟩
  · exact ⟨_, asItself 0x65 _ h65⟩
  · exact ⟨_, asItself 0x68 _ h68⟩
  · exact ⟨_, asItself 0x69 _ h69⟩
  · exact ⟨_, asItself 0x6A _ h6A⟩
  · exact ⟨_, asItself 0x6C _ h6C⟩
  · exact ⟨_, asItself 0x6D _ h6D⟩
  · exact ⟨_, asItself r.code _ rfl⟩

/-- The core's turn where R167 processes nothing, or where nothing is queued. -/
theorem step_receive_waiting {s : State} {rest : List Turn} (hs : s.script = .receive :: rest)
    (h : s.rxq = [] ∨ receiving s = false) : step s = .next { s with script := rest } := by
  rw [step_receive hs]
  rcases h with hempty | hwaits
  · simp [receiveTurn, hempty]
  · exact if_neg (Bool.eq_false_iff.1 hwaits)

/-- The handshake: the head record is taken off and answered or refused (R166). -/
theorem step_receive_handshaking {s : State} {rest : List Turn} {r : Record} {rs : List Record}
    (hs : s.script = .receive :: rest) (hl : s.lstate = .handshaking) (hq : s.rxq = r :: rs) :
    step s = .next (handshakeStep r { s with script := rest, rxq := rs }) := by
  obtain ⟨dispose, hexec⟩ := exec_decodeRecord r { s with script := rest }
  rw [step_record hs hq (receiving_iff.2 (.inl hl)), hexec, processRecord_handshaking (by exact hl)]
  simp [rxPop, hq]

/-- Settles O28: the two outcomes of the handshake step, by whether the record is the version record. -/
theorem handshakeEchoesOrFails : Obligations.HandshakeEchoesOrFails := by
  refine ⟨fun s rest hs hl => step_receive_waiting hs (.inr (receiving_eq_false_iff.2 (by simp [hl]))), ?_⟩
  intro s rest r rs hs hl hq
  rw [step_receive_handshaking hs hl hq, handshakeStep]
  simp only [isVersionRecord_iff]
  split <;> rfl

/-- Settles O29: the reply's own disposition is the completion. -/
theorem replyCompletesTheXfer : Obligations.ReplyCompletesTheXfer :=
  fun _ _ _ _ _ hl hv => processRecord_pending hl hv

/-- Settles O30: the three rows share the disposition that does nothing. -/
theorem informationalRecordsAreDropped : Obligations.InformationalRecordsAreDropped := by
  rintro b c d ts i s (rfl | rfl | rfl) hl hv <;> exact processRecord_pending hl hv

/-- Settles O31: the disposition of each of the three rows logs its own code. -/
theorem unexpectedRecordsAreLogged : Obligations.UnexpectedRecordsAreLogged := by
  rintro b c d ts i code s (⟨rfl, rfl⟩ | ⟨rfl, rfl⟩ | ⟨rfl, rfl⟩) hl hv <;> exact processRecord_pending hl hv

/-- Settles O32: a code outside the table decodes to the unknown record (`decodeRecord_unknown`), whose disposition
logs the code. -/
theorem unknownRecordsAreLogged : Obligations.UnknownRecordsAreLogged := by
  refine ⟨fun r hcode => ?_, fun code b c d ts s hl hv => ?_⟩
  · have hunknown : Instr.WellFormed (.recUnknown r.code r.fieldB r.fieldC r.fieldD r.ts) :=
      wellFormed_recUnknown.2 (by simpa using hcode)
    have hdecode := decodeRecord_unknown _ _ _ _ hunknown
    rw [mkRecord_ts] at hdecode
    exact congrArg Except.ok hdecode
  · rw [BitVec.ofNat_toNat]
    exact processRecord_pending hl hv

/-- Settles O33: the core's turn waits, and every record row goes through `processRecord`, which waits. -/
theorem queueWaitsWhereNothingIsProcessed : Obligations.QueueWaitsWhereNothingIsProcessed := by
  refine ⟨fun s rest hs h => step_receive_waiting hs (h.imp_right receiving_eq_false_iff.2), ?_⟩
  intro s code b c d ts hl hp i hi
  have hrecord : ∃ r dispose, exec i s = processRecord r dispose s := by
    simp only [List.mem_cons, List.not_mem_nil, or_false] at hi
    rcases hi with rfl | rfl | rfl | rfl | rfl | rfl | rfl | rfl <;> exact ⟨_, _, rfl⟩
  obtain ⟨r, dispose, hexec⟩ := hrecord
  rw [hexec, processRecord_waiting (receiving_eq_false_iff.2 ⟨hl, hp⟩)]

/-! ## The turns of the peer and of the timeout (R164, R165, R175, R187) -/

/-- The peer takes the next of its steps where that is enabled, and keeps it elsewhere. -/
theorem step_peer {s : State} {rest : List Turn} {op : PeerOp} {ops : List PeerOp} (hs : s.script = .peer :: rest)
    (hp : s.peer = op :: ops) :
    step s = .next ((peerStep op { s with script := rest, peer := ops }).getD { s with script := rest }) := by
  simp [step, hs, peerTurn, hp]

theorem step_timeout {s : State} {rest : List Turn} (hs : s.script = .timeout :: rest) :
    step s = .next (timeoutStep { s with script := rest }) := by
  simp [step, hs]

/-- Settles O34: the guards of the two steps. -/
theorem peerConnectsAndPushes : Obligations.PeerConnectsAndPushes := by
  refine ⟨fun s rest ops hs hp => ?connect, fun s rest r ops hs hp => ?push⟩
  case connect =>
    rw [step_peer hs hp, peerStep]
    split <;> rfl
  case push =>
    rw [step_peer hs hp, peerStep]
    split <;> rfl

theorem peerStep_lost_disabled {s : State} (hh : s.lstate ≠ .handshaking) (hr : s.lstate ≠ .ready) :
    peerStep .lost s = none := if_neg (not_or.2 ⟨hh, hr⟩)

theorem peerStep_lost_enabled {s : State} (h : s.lstate = .handshaking ∨ s.lstate = .ready) :
    peerStep .lost s = some (if s.pend.valid then
      respond .linkLost { logEvent .linkLost 0 { s with lstate := .closed, rxq := [] } with
        pend := { s.pend with valid := false } }
      else logEvent .linkLost 0 { s with lstate := .closed, rxq := [] }) := if_pos h

/-- Settles O35: the loss where it is not enabled, with no XFER pending, and with one. -/
theorem peerLossClosesTheLink : Obligations.PeerLossClosesTheLink := by
  intro s rest ops hs hp
  rw [step_peer hs hp]
  refine ⟨fun hh hr => ?disabled, fun hl hv => ?idle, fun hl hv => ?pending⟩
  case disabled => rw [peerStep_lost_disabled (by exact hh) (by exact hr)]; rfl
  case idle => rw [peerStep_lost_enabled (by exact hl), if_neg (by exact Bool.eq_false_iff.1 hv)]; rfl
  case pending => rw [peerStep_lost_enabled (by exact hl), if_pos (by exact hv)]; rfl

theorem timeoutStep_none {s : State} (h : s.params.xferTimeout = none) : timeoutStep s = s := by
  simp [timeoutStep, h]

/-- The timeout step of a pending XFER depends on the clock alone. -/
theorem timeoutStep_pending {s : State} {limit : Nat} (h : s.params.xferTimeout = some limit) (hl : s.lstate = .ready)
    (hv : s.pend.valid = true) :
    timeoutStep s = if s.pend.t0.toNat + limit ≤ s.clock.toNat then
      respond .timeout (logEvent .timeout (s.pend.tx.setWidth 32)
        { s with pend := { s.pend with valid := false }, lstate := .closed })
    else s := by
  simp [timeoutStep, h, hl, hv, now]

/-- Settles O36: the elapsed ticks reach the limit exactly when the clock has reached `t0 + limit`. -/
theorem xferTimeoutClosesTheLink : Obligations.XferTimeoutClosesTheLink := by
  intro s rest hs hl hv
  rw [step_timeout hs]
  refine ⟨fun hnone => by rw [timeoutStep_none (by exact hnone)], fun limit hlimit => ?_⟩
  have helapsed : (s.clock.toNat : Int) - s.pend.t0.toNat ≥ limit ↔ s.pend.t0.toNat + limit ≤ s.clock.toNat := by omega
  rw [timeoutStep_pending (by exact hlimit) (by exact hl) (by exact hv), BitVec.ofNat_toNat]
  simp only [helapsed]
  rfl

end Sys2Proof.Machine
end

section
/-! The family of 41_byte_exchange.md, second part: what every step keeps of the link, of the output streams and of a
pending XFER, read off the list of a step's effects. -/

namespace Sys2Proof.Machine

open Sys2Proof.Claims

/-! ## The link state (R160) -/

theorem RequestEffect.lstate_eq {s t : State} (e : RequestEffect s t) : t.lstate = s.lstate := by
  cases e <;> rfl

/-- No turn of the host moves the link. -/
theorem HostEffect.lstate_eq {s t : State} (e : HostEffect s t) : t.lstate = s.lstate := by
  cases e with
  | request _ _ _ _ e => exact e.lstate_eq
  | layer | wrotePbuf | wroteIbuf => rfl

theorem linkMayMove_of_eq {s t : State} (h : t.lstate = s.lstate) : linkMayMove s.lstate t.lstate := .inl h.symm

theorem linkMayMove_closed {l : LinkState} (h : l = .handshaking ∨ l = .ready) : linkMayMove l .closed := by
  rcases h with rfl | rfl <;> decide

/-- The core's turn moves the link only out of HANDSHAKING. -/
theorem ReceiveEffect.lstate_mayMove {s t : State} (e : ReceiveEffect s t) : linkMayMove s.lstate t.lstate := by
  cases e with
  | matched r rs hq hl =>
    change linkMayMove s.lstate .ready
    rw [hl]; decide
  | mismatched r rs hq hl =>
    change linkMayMove s.lstate .failed
    rw [hl]; decide
  | waits | completed | dropped => exact linkMayMove_of_eq rfl

/-- The peer opens the link from LISTENING and closes it from HANDSHAKING or READY. -/
theorem peerTurn_lstate_mayMove (s : State) : linkMayMove s.lstate (peerTurn s).lstate := by
  rcases peerTurn_cases s with h | ⟨op, rest, -, h⟩
  · exact linkMayMove_of_eq (by rw [h])
  rcases peerStep_some h with ⟨-, hl, h⟩ | ⟨r, -, -, -, h⟩ | ⟨-, hl, -, h⟩ | ⟨-, hl, -, h⟩ <;> rw [h]
  · change linkMayMove s.lstate .handshaking
    rw [show s.lstate = .listening from hl]; decide
  · exact linkMayMove_of_eq rfl
  · exact linkMayMove_closed hl
  · exact linkMayMove_closed hl

/-- A timeout closes the link from READY. -/
theorem timeoutStep_lstate_mayMove (s : State) : linkMayMove s.lstate (timeoutStep s).lstate := by
  rcases timeoutStep_cases s with h | ⟨limit, -, hl, -, -, h⟩
  · exact linkMayMove_of_eq (by rw [h])
  · rw [h]; exact linkMayMove_closed (.inr hl)

theorem tick_lstate (c : DWord) (s : State) : (tick c s).lstate = s.lstate := by
  rcases tick_cases c s with ⟨-, h⟩ | ⟨-, h⟩ <;> rw [h]

theorem StepEffect.lstate_mayMove {s t : State} (e : StepEffect s t) (hreset : s.script.head? ≠ some .reset) :
    linkMayMove s.lstate t.lstate := by
  cases e with
  | idle => exact linkMayMove_of_eq rfl
  | host _ _ _ e => exact linkMayMove_of_eq e.lstate_eq
  | peer rest => exact peerTurn_lstate_mayMove { s with script := rest }
  | tick rest c => exact linkMayMove_of_eq (tick_lstate c { s with script := rest })
  | receive _ _ _ e => exact e.lstate_mayMove
  | timeout rest => exact timeoutStep_lstate_mayMove { s with script := rest }
  | reset rest hs => exact absurd (by rw [hs]; rfl) hreset

/-- The transitions of R160, grouped by where they start. -/
theorem linkMayMove_iff {l l' : LinkState} : linkMayMove l l' ↔
    l' = l ∨ (l = .listening ∧ l' = .handshaking) ∨
      (l = .handshaking ∧ (l' = .ready ∨ l' = .failed ∨ l' = .closed)) ∨ (l = .ready ∧ l' = .closed) := by
  cases l <;> cases l' <;> decide

/-- Settles O40: each effect in the list of `step_next` moves the link by an entry of the table, if at all. -/
theorem linkMovesOnlyAsListed : Obligations.LinkMovesOnlyAsListed :=
  fun _ _ h hreset => linkMayMove_iff.1 ((step_next h).lstate_mayMove hreset)

/-! ## The output streams (R163, R268, R88) -/

/-- A history is kept, or has one entry more at its end. -/
def GrowsByOne {α : Type} (l l' : List α) : Prop := l' = l ∨ ∃ x, l' = l ++ [x]

theorem GrowsByOne.same {α : Type} {l : List α} : GrowsByOne l l := .inl rfl

theorem GrowsByOne.entry {α : Type} {l : List α} {x : α} : GrowsByOne l (l ++ [x]) := .inr ⟨x, rfl⟩

/-- A list of at most one entry at the end. -/
theorem GrowsByOne.of_length_le_one {α : Type} {l xs : List α} (h : xs.length ≤ 1) : GrowsByOne l (l ++ xs) := by
  match xs, h with
  | [], _ => exact .inl (List.append_nil l)
  | [x], _ => exact .entry

/-- The three output histories grow by at most one entry each, and a record is sent from HANDSHAKING or READY only. -/
structure StreamsGrow (s t : State) : Prop where
  tx : t.txHist = s.txHist ∨ ((s.lstate = .handshaking ∨ s.lstate = .ready) ∧ ∃ r, t.txHist = s.txHist ++ [r])
  log : GrowsByOne s.logHist t.logHist
  resp : GrowsByOne s.respHist t.respHist

/-- The way a turn without output keeps them. -/
theorem StreamsGrow.of_eq {s t : State} (htx : t.txHist = s.txHist) (hlog : t.logHist = s.logHist)
    (hresp : t.respHist = s.respHist) : StreamsGrow s t := ⟨.inl htx, .inl hlog, .inl hresp⟩

theorem RequestEffect.streamsGrow {s t : State} (e : RequestEffect s t) : StreamsGrow s t := by
  cases e with
  | ended | encoded | parsed => exact ⟨.inl rfl, .same, .entry⟩
  | started b hl => exact ⟨.inr ⟨.inr hl, _, rfl⟩, .same, .same⟩
  | advanced dt hl => exact ⟨.inr ⟨.inr hl, _, rfl⟩, .same, .entry⟩

theorem HostEffect.streamsGrow {s t : State} (e : HostEffect s t) : StreamsGrow s t := by
  cases e with
  | request _ _ _ _ e => exact { e.streamsGrow with }
  | layer | wrotePbuf | wroteIbuf => exact .of_eq rfl rfl rfl

theorem ReceiveEffect.streamsGrow {s t : State} (e : ReceiveEffect s t) : StreamsGrow s t := by
  cases e with
  | waits => exact .of_eq rfl rfl rfl
  | matched r rs hq hl => exact ⟨.inr ⟨.inl hl, r, rfl⟩, .same, .same⟩
  | mismatched => exact ⟨.inl rfl, .entry, .same⟩
  | completed => exact ⟨.inl rfl, .same, .entry⟩
  | dropped r rs log hq hl hv hr hlog => exact ⟨.inl rfl, .of_length_le_one hlog, .same⟩

theorem peerTurn_streamsGrow (s : State) : StreamsGrow s (peerTurn s) := by
  rcases peerTurn_cases s with h | ⟨op, rest, -, h⟩
  · rw [h]; exact .of_eq rfl rfl rfl
  rcases peerStep_some h with ⟨-, -, h⟩ | ⟨r, -, -, -, h⟩ | ⟨-, -, -, h⟩ | ⟨-, -, -, h⟩ <;> rw [h]
  · exact .of_eq rfl rfl rfl
  · exact .of_eq rfl rfl rfl
  · exact ⟨.inl rfl, .entry, .same⟩
  · exact ⟨.inl rfl, .entry, .entry⟩

theorem tick_streamsGrow (c : DWord) (s : State) : StreamsGrow s (tick c s) := by
  rcases tick_cases c s with ⟨-, h⟩ | ⟨-, h⟩ <;> rw [h] <;> exact .of_eq rfl rfl rfl

theorem timeoutStep_streamsGrow (s : State) : StreamsGrow s (timeoutStep s) := by
  rcases timeoutStep_cases s with h | ⟨limit, -, -, -, -, h⟩ <;> rw [h]
  · exact .of_eq rfl rfl rfl
  · exact ⟨.inl rfl, .entry, .entry⟩

theorem StepEffect.streamsGrow {s t : State} (e : StepEffect s t) (hreset : s.script.head? ≠ some .reset) :
    StreamsGrow s t := by
  cases e with
  | idle => exact .of_eq rfl rfl rfl
  | host _ _ _ e => exact { e.streamsGrow with }
  | peer rest => exact { peerTurn_streamsGrow { s with script := rest } with }
  | tick rest c => exact { tick_streamsGrow c { s with script := rest } with }
  | receive _ _ _ e => exact { e.streamsGrow with }
  | timeout rest => exact { timeoutStep_streamsGrow { s with script := rest } with }
  | reset rest hs => exact absurd (by rw [hs]; rfl) hreset

/-- Settles O45: each effect in the list of `step_next` writes each stream once at most. -/
theorem streamsGrowByOneEntry : Obligations.StreamsGrowByOneEntry := by
  intro s t h hreset
  have hgrow := (step_next h).streamsGrow hreset
  exact ⟨hgrow.tx, hgrow.log, hgrow.resp⟩

/-! ## A pending XFER and a silent peer (R172, R176) -/

/-- The pending-byte slot, the link and the response history stay as they are. -/
structure KeepsXfer (s t : State) : Prop where
  pend : t.pend = s.pend
  lstate : t.lstate = s.lstate
  respHist : t.respHist = s.respHist

/-- The port runs no request while one is outstanding, so the host cannot end the XFER. -/
theorem HostEffect.keepsXfer {s t : State} (e : HostEffect s t) (hv : s.pend.valid = true) : KeepsXfer s t := by
  cases e with
  | layer => exact ⟨rfl, rfl, rfl⟩
  | request _ _ _ hready => exact Bool.noConfusion (hready.symm.trans hv)
  | wrotePbuf _ _ _ hready => exact Bool.noConfusion (hready.symm.trans hv)
  | wroteIbuf _ _ _ hready => exact Bool.noConfusion (hready.symm.trans hv)

/-- In READY only a data-exchange reply at the head of the queue completes the XFER. -/
theorem ReceiveEffect.keepsXfer {s t : State} (e : ReceiveEffect s t) (hl : s.lstate = .ready)
    (hhead : ∀ r ∈ s.rxq.head?, r.code ≠ 0x69) : KeepsXfer s t := by
  cases e with
  | waits | dropped => exact ⟨rfl, rfl, rfl⟩
  | matched r rs hq hshake => exact absurd (hl.symm.trans hshake) (by decide)
  | mismatched r rs hq hshake => exact absurd (hl.symm.trans hshake) (by decide)
  | completed r rs hq hready hv hcode => exact absurd hcode (hhead r (by rw [hq]; rfl))

theorem tick_keepsXfer (c : DWord) (s : State) : KeepsXfer s (tick c s) := by
  rcases tick_cases c s with ⟨-, h⟩ | ⟨-, h⟩ <;> rw [h] <;> exact ⟨rfl, rfl, rfl⟩

/-- Settles O47: of the effects of a step that is neither the peer's nor reset, only a request, a reply and a timeout
reach the slot, the link or the responses, and each is excluded. -/
theorem pendingXferOutlastsASilentPeer : Obligations.PendingXferOutlastsASilentPeer := by
  intro s t h hl hv hnone hhead hpeer hreset
  have hkept : KeepsXfer s t := by
    cases step_next h with
    | idle => exact ⟨rfl, rfl, rfl⟩
    | host _ _ _ e => exact { e.keepsXfer hv with }
    | peer rest hs => exact absurd (by rw [hs]; rfl) hpeer
    | tick rest c => exact { tick_keepsXfer c { s with script := rest } with }
    | receive _ _ _ e => exact { e.keepsXfer hl hhead with }
    | timeout rest => rw [timeoutStep_none (by exact hnone)]; exact ⟨rfl, rfl, rfl⟩
    | reset rest hs => exact absurd (by rw [hs]; rfl) hreset
  exact ⟨hkept.pend, hkept.lstate.trans hl, hkept.respHist⟩

end Sys2Proof.Machine
end

section
/-! The family of 45_host_protocol.md, first part: the device-identity latch, and the driver's turns in each phase of a
command exchange. -/

namespace Sys2Proof.Machine

open Sys2Proof.Claims

/-! ## The device-identity latch (R211) -/

/-- Observing a byte learns it only where no id stands. -/
theorem latchLearn_eq (learned : Option Byte) (seen : Byte) : latchLearn learned seen = some (learned.getD seen) := by
  cases learned <;> rfl

theorem latchDrift_none (seen : Byte) : latchDrift none seen = none := rfl

theorem latchDrift_some (id seen : Byte) :
    latchDrift (some id) seen = if seen = id then none else some ⟨id, seen⟩ := rfl

/-- No sequence of later bytes moves a learned id. -/
theorem foldl_latchLearn_some (id : Byte) (ds : List Byte) : ds.foldl latchLearn (some id) = some id := by
  induction ds with
  | nil => rfl
  | cons d ds ih => exact ih

/-- Each byte that differs from the learned id gives one finding, and the others give none. -/
theorem length_filterMap_latchDrift (id : Byte) (ds : List Byte) :
    (ds.filterMap (latchDrift (some id))).length = (ds.filter (fun d => d ≠ id)).length := by
  induction ds with
  | nil => rfl
  | cons d ds ih =>
    by_cases hd : d = id <;> simpa [List.filterMap_cons, latchDrift_some, hd] using ih

/-- Settles O55: the first byte is learned, and over the later ones the id is fixed and the findings counted, each by
induction on the bytes. -/
theorem deviceLatchKeepsTheFirstId : Obligations.DeviceLatchKeepsTheFirstId := by
  refine ⟨fun d => ⟨latchLearn_eq none d, latchDrift_none d⟩,
    fun id d => ⟨latchLearn_eq (some id) d, latchDrift_some id d⟩, fun id ds => ⟨foldl_latchLearn_some id ds, ?_⟩⟩
  rw [foldl_latchLearn_some]
  exact length_filterMap_latchDrift id ds

/-- The finding of one observation, as the list that it adds. -/
theorem toList_latchDrift (learned : Option Byte) (seen : Byte) :
    (latchDrift learned seen).toList = (match learned with
      | none => []
      | some id => if seen = id then [] else [⟨id, seen⟩]) := by
  cases learned with
  | none => rfl
  | some id => by_cases h : seen = id <;> simp [latchDrift_some, h]

/-- What a reply to `EOC` does to the Session object and to the findings (R212). -/
theorem latchPeer_eq (seen : Byte) (s : State) : latchPeer seen s = { s with host := { s.host with
    session := { s.host.session with peerDeviceId := some (s.host.session.peerDeviceId.getD seen) }
    findings := s.host.findings ++ (match s.host.session.peerDeviceId with
      | none => []
      | some id => if seen = id then [] else [⟨id, seen⟩]) } } := by
  rw [latchPeer, latchLearn_eq, toList_latchDrift]

theorem latchLocal_eq (s : State) : latchLocal s = { s with host := { s.host with
    session := { s.host.session with localDeviceId := some (s.host.session.localDeviceId.getD 0x80) } } } := by
  rw [latchLocal, latchLearn_eq]

/-! ## Offering a request word of the four rows (R82 to R86, R104) -/

/-- A request word of a row runs the row's instruction. -/
theorem RequestRow.issueRequest_eq {q : DWord} {i : Instr} (h : RequestRow q i) (s : State) :
    issueRequest q s = exec i s := by
  have hdecode : decode (.request q) = .ok i := decodeRequest_eq_ok_iff.2 h
  simp only [issueRequest, hdecode]

/-- The pseudo-instructions run as the XFER of their byte. -/
theorem exec_nameXfer (b : Byte) (s : State) : exec (nameXfer b) s = exec (.xfer b) s := by
  unfold nameXfer
  split_ifs with hpoll heoc hpad
  · rw [hpoll]; rfl
  · rw [heoc]; rfl
  · rw [hpad]; rfl
  · rfl

theorem issueRequest_xferWord (b : Byte) (s : State) : issueRequest (xferWord b) s = exec (.xfer b) s :=
  ((RequestRow.xfer b).issueRequest_eq s).trans (exec_nameXfer b s)

/-! ## What the driver issues (R214 to R217) -/

/-- With a driver call in progress the host's turn is the driver's. -/
theorem step_driver {s : State} {rest : List Turn} {d : DriverRun} (hs : s.script = .host :: rest)
    (hd : s.host.driver = some d) : step s = driverTurn d { s with script := rest } := by
  simp [step_host hs, hostTurn, hd]

theorem driverTurn_held {d : DriverRun} {s : State} (hw : d.waiting = false) (hload : d.phase ≠ .load)
    (hbusy : s.pend.valid = true) : driverTurn d s = .next s := by
  simp [driverTurn, hw, hload, hbusy]

theorem driverTurn_load {d : DriverRun} {s : State} (hw : d.waiting = false) (hp : d.phase = .load) :
    driverTurn d s = hostWrite .pbuf 0 d.payload (goPhase .encode d s) := by
  simp [driverTurn, hw, hp]

theorem driverTurn_issue {d : DriverRun} {s : State} (hw : d.waiting = false) (hload : d.phase ≠ .load)
    (hready : s.pend.valid = false) : driverTurn d s = issueRequest (phaseWord d s) (phaseIssued d s) := by
  simp [driverTurn, hw, hload, hready]

theorem driverTurn_tsync {d : DriverRun} {s : State} (hw : d.waiting = false) (hready : s.pend.valid = false)
    (hp : d.phase = .tsync) : driverTurn d s = exec .tsync (setDriver { d with waiting := true } s) := by
  rw [driverTurn_issue hw (by simp [hp]) hready, phaseWord, phaseIssued, hp]
  exact (RequestRow.advance 0).issueRequest_eq _

theorem driverTurn_encode {d : DriverRun} {s : State} (hw : d.waiting = false) (hready : s.pend.valid = false)
    (hp : d.phase = .encode) :
    driverTurn d s =
      exec (.encode d.cmd (BitVec.ofNat 8 d.payload.length)) (setDriver { d with waiting := true } s) := by
  rw [driverTurn_issue hw (by simp [hp]) hready, phaseWord, phaseIssued, hp]
  exact (RequestRow.encode _ _).issueRequest_eq _

/-- The phases after ENCODE are one XFER each, of the phase's byte. -/
theorem driverTurn_xfer {d : DriverRun} {s : State} (hw : d.waiting = false) (hready : s.pend.valid = false)
    (htsync : d.phase ≠ .tsync) (hload : d.phase ≠ .load) (hencode : d.phase ≠ .encode) :
    driverTurn d s = exec (.xfer (phaseByte d s)) (phaseIssued d s) := by
  have hword : phaseWord d s = xferWord (phaseByte d s) := by
    unfold phaseWord
    split
    · next hp => exact absurd hp htsync
    · next hp => exact absurd hp hencode
    · rfl
  rw [driverTurn_issue hw hload hready, hword, issueRequest_xferWord]

/-- Of the phases only the bytes of `OBUF` and the first marker leave more behind than a waiting driver. -/
theorem phaseIssued_waits {d : DriverRun} {s : State} (hframe : ∀ k, d.phase ≠ .frame k) (heoc : d.phase ≠ .eoc) :
    phaseIssued d s = setDriver { d with waiting := true } s := by
  unfold phaseIssued
  split
  · next k hp => exact absurd hp (hframe k)
  · next hp => exact absurd hp heoc
  · rfl

/-- The phases whose XFER needs nothing of the block: neither a byte of `OBUF` nor the driver's own id. -/
def DriverPhase.sendsOwnByte : DriverPhase → Bool
  | .tsync | .load | .encode | .frame _ | .eoc => false
  | .pad | .magic1 | .magic2 | .header | .body | .csumHi | .csumLo | .confirmEoc | .confirm => true

/-- In such a phase the driver issues the XFER and waits, and that is all. -/
theorem driverTurn_ownByte {d : DriverRun} {s : State} (hw : d.waiting = false) (hready : s.pend.valid = false)
    (h : d.phase.sendsOwnByte = true) :
    driverTurn d s = exec (.xfer (phaseByte d s)) (setDriver { d with waiting := true } s) := by
  have hne (p : DriverPhase) (hp : p.sendsOwnByte = false) : d.phase ≠ p := fun e => by simp [e, hp] at h
  rw [driverTurn_xfer hw hready (hne _ rfl) (hne _ rfl) (hne _ rfl), phaseIssued_waits (fun _ => hne _ rfl) (hne _ rfl)]

theorem hostByte_written {s : State} {sp : Space} {i : Nat} {b : Byte} (h : (bufferOf s sp).byte i = some b) :
    hostByte s sp i = b := by
  simp [hostByte, h]

theorem afterHostRead_written {s : State} {sp : Space} {i : Nat} {b : Byte} (h : (bufferOf s sp).byte i = some b) :
    afterHostRead s sp i = s := by
  simp [afterHostRead, h]

/-- The XFER of an `OBUF` byte that is written (R214 step 2). -/
theorem driverTurn_frame {d : DriverRun} {s : State} {k : Nat} {b : Byte} (hw : d.waiting = false)
    (hready : s.pend.valid = false) (hp : d.phase = .frame k) (hb : s.obuf.byte k = some b) :
    driverTurn d s = exec (.xfer b) (setDriver { d with waiting := true } s) := by
  have hbyte : phaseByte d s = b := by rw [phaseByte, hp]; exact hostByte_written hb
  have hissued : phaseIssued d s = setDriver { d with waiting := true } s := by
    rw [phaseIssued, hp]
    exact congrArg (setDriver _) (afterHostRead_written (sp := .obuf) hb)
  rw [driverTurn_xfer hw hready (by simp [hp]) (by simp [hp]) (by simp [hp]), hbyte, hissued]

/-- The XFER of the first end-of-command marker, which carries the driver's own device byte (R212). -/
theorem driverTurn_eoc {d : DriverRun} {s : State} (hw : d.waiting = false) (hready : s.pend.valid = false)
    (hp : d.phase = .eoc) :
    driverTurn d s = exec .eoc (latchLocal (setDriver { d with waiting := true } s)) := by
  rw [driverTurn_xfer hw hready (by simp [hp]) (by simp [hp]) (by simp [hp]), phaseByte, phaseIssued, hp]; rfl

/-- Taking the next phase with no response to take. -/
theorem goPhase_not_waiting {d : DriverRun} (phase : DriverPhase) (s : State) (hw : d.waiting = false) :
    goPhase phase d s = setDriver { d with phase := phase } s := by
  rw [goPhase, ← hw]

/-- Settles O50: in each phase the driver's turn is its write or its request, and the phase fixes both the word and what
the issue leaves behind. -/
theorem driverIssuesItsRequests : Obligations.DriverIssuesItsRequests := by
  intro s rest d hs hd hw
  rw [step_driver hs hd]
  refine ⟨fun hbusy hload => driverTurn_held hw hload hbusy, fun hready => ?_⟩
  have ownByte {b : Byte} (h : d.phase.sendsOwnByte = true) (hb : phaseByte d { s with script := rest } = b) :
      driverTurn d { s with script := rest } = exec (.xfer b) (driverAt { d with waiting := true } rest s) :=
    hb ▸ driverTurn_ownByte hw hready h
  refine ⟨driverTurn_tsync hw hready, fun hp hlen => ?load, driverTurn_encode hw hready,
    fun k b hp hb => driverTurn_frame hw hready hp hb, fun hp => ?eoc, fun hp => ?pad, fun hp => ?poll,
    fun hp => ?confirmEoc, fun h0 hp hh => ?confirm⟩
  case load =>
    rw [driverTurn_load hw hp, goPhase_not_waiting _ _ hw]
    exact hostWrite_pbuf hready (by omega)
  case eoc => exact (driverTurn_eoc (s := { s with script := rest }) hw hready hp).trans (by rw [latchLocal_eq]; rfl)
  case pad => exact ownByte (b := 0x00) (by rw [hp]; rfl) (by rw [phaseByte, hp])
  case poll =>
    rcases hp with hp | hp | hp | hp | hp | hp <;>
      exact ownByte (b := 0x4B) (by rw [hp]; rfl) (by rw [phaseByte, hp])
  case confirmEoc => exact ownByte (b := 0x80) (by rw [hp]; rfl) (by rw [phaseByte, hp])
  case confirm => exact ownByte (by rw [hp]; rfl) (by rw [phaseByte, hp]; simp [List.getD_eq_getElem?_getD, hh])

/-! ## What the driver makes of a response (R214 to R219) -/

/-- A waiting driver's turn takes the response. -/
theorem step_driverTakes {s : State} {rest : List Turn} {d : DriverRun} {st : Status} (h : driverTakes s rest d st) :
    step s = .next (driverResume d st { s with script := rest }) := by
  obtain ⟨hs, hd, hw, hresp⟩ := h
  simp [step_driver hs hd, driverTurn, hw, hresp]

/-- On `OK` the driver reads the reply byte from `X_RX`. -/
theorem step_driverTakes_ok {s : State} {rest : List Turn} {d : DriverRun} (h : driverTakes s rest d .ok) :
    step s = .next (driverReply d s.xRx { s with script := rest }) := step_driverTakes h

/-- Any other status ends the call (R219). -/
theorem step_driverTakes_failed {s : State} {rest : List Turn} {d : DriverRun} {st : Status}
    (h : driverTakes s rest d st) (hst : st ≠ .ok) : step s = .next (callOver (.failed (.request st)) rest s) := by
  rw [step_driverTakes h, driverResume, if_neg hst]; rfl

/-- Settles O51: the phases up to the frame's last byte, and the statuses that end a call. -/
theorem driverPushesTheFrame : Obligations.DriverPushesTheFrame := by
  refine ⟨fun s rest d k h hp => ?frame, fun s rest d h => ⟨fun hp => ?tsync, fun hp => ?encode⟩,
    fun _ _ _ _ => step_driverTakes_failed⟩
  all_goals
    rw [step_driverTakes_ok h, driverReply, hp]
    rfl

/-- Settles O52: the reply to the marker is latched, and the reply to the padding byte decides the phase's three
outcomes. -/
theorem driverTakesTheAcknowledgement : Obligations.DriverTakesTheAcknowledgement := by
  intro s rest d h
  rw [step_driverTakes_ok h, driverReply]
  refine ⟨fun hp => ?eoc, fun hp hx => ?violation, fun hp hx hlatch => ?noReply, fun hp hx hlatch => ?polls⟩
  case eoc => simp only [hp, latchPeer_eq]; rfl
  case violation => simp only [hp, if_pos hx]; rfl
  case noReply => simp only [hp, if_neg (not_not.2 hx), if_pos hlatch]; rfl
  case polls => simp only [hp, if_neg (not_not.2 hx), hlatch]; rfl

/-- The length byte of the reply frame, once four header bytes are there. -/
theorem replyLength_eq {d : DriverRun} {len : Byte} (h : d.header[3]? = some len) : replyLength d = len.toNat := by
  simp [replyLength, List.getD_eq_getElem?_getD, h]

/-- The two checksums of a reply frame agree exactly when the window's sum is the number received (R216). -/
theorem replyCsum_eq_iff {d : DriverRun} {h0 h1 h2 h3 : Byte} (h : d.header = [h0, h1, h2, h3]) (hi lo : Byte) :
    replyCsum d = csumOfBytes hi lo ↔ windowSum h0 h1 h2 h3 d.body % 65536 = hi.toNat * 256 + lo.toNat := by
  have hcsum : replyCsum d = csum h0 h1 h2 h3 d.body := by simp [replyCsum, h]
  rw [hcsum, ← BitVec.toNat_inj, toNat_csum, toNat_csumOfBytes]

/-- A header byte that is not the last. -/
theorem driverReply_header_more {d : DriverRun} {x : Byte} {s : State} (hp : d.phase = .header)
    (h : d.header.length < 3) :
    driverReply d x s = goPhase .header { d with header := d.header ++ [x] } s := by
  have hmore : (d.header ++ [x]).length < 4 := by
    rw [List.length_append, List.length_singleton]; omega
  rw [driverReply, hp]
  exact if_pos hmore

/-- The last header byte is the length byte, and an empty payload is skipped. -/
theorem driverReply_header_last {d : DriverRun} {x : Byte} {s : State} (hp : d.phase = .header)
    (h : d.header.length = 3) :
    driverReply d x s = goPhase (if x = 0 then .csumHi else .body) { d with header := d.header ++ [x] } s := by
  have hfull : ¬ (d.header ++ [x]).length < 4 := by simp [h]
  have hlen : replyLength { d with header := d.header ++ [x] } = x.toNat := replyLength_eq (by simp [h])
  have hzero : x.toNat = 0 ↔ x = 0 := BitVec.toNat_inj (y := 0)
  rw [driverReply, hp]
  simp only [if_neg hfull]
  rw [← hp]
  simp only [hlen, hzero]
  split <;> rfl

/-- A payload byte, after which the driver pulls the next one or the checksum. -/
theorem driverReply_body {d : DriverRun} {x len : Byte} {s : State} (hp : d.phase = .body)
    (h : d.header[3]? = some len) :
    driverReply d x s =
      goPhase (if d.body.length + 1 < len.toNat then .body else .csumHi) { d with body := d.body ++ [x] } s := by
  rw [driverReply, hp]
  simp only [replyLength_eq h, List.length_append, List.length_singleton]
  split <;> rfl

/-- Settles O53: phase by phase, the next phase being decided by the reply byte, by the bytes still to come, or by the
checksum. -/
theorem driverPullsTheReply : Obligations.DriverPullsTheReply := by
  intro s rest d h
  rw [step_driverTakes_ok h]
  refine ⟨fun hp => ?magic1, fun hp => ?magic2, fun hp hmore => ?header, fun hp hlast => ?lastHeader,
    fun len hp hlen => ?body, fun hp => ?csumHi, fun h0 h1 h2 h3 hp hheader => ?csumLo⟩
  case magic1 =>
    rw [driverReply, hp]
    dsimp only
    split <;> rfl
  case magic2 =>
    rw [driverReply, hp]
    simp only [ite_not]
    rfl
  case header => rw [driverReply_header_more hp hmore, goPhase, ← hp]; rfl
  case lastHeader => rw [driverReply_header_last hp hlast]; rfl
  case body => rw [driverReply_body hp hlen]; rfl
  case csumHi => rw [driverReply, hp]; rfl
  case csumLo =>
    rw [driverReply, hp]
    simp only [ite_not, ne_eq, replyCsum_eq_iff hheader]
    rfl

/-- Settles O54: the second marker's reply is latched; the last comparison is of the two command bytes. -/
theorem driverConfirmsAndReturns : Obligations.DriverConfirmsAndReturns := by
  intro s rest d h
  rw [step_driverTakes_ok h, driverReply]
  refine ⟨fun hp => ?confirmEoc, fun h0 hp hh => ?confirm⟩
  case confirmEoc => simp only [hp, latchPeer_eq]; rfl
  case confirm => simp only [hp, List.getD_eq_getElem?_getD, hh, Option.getD_some, ite_not]; rfl

end Sys2Proof.Machine
end

section
/-! The family of 45_host_protocol.md, second part: the trace analyzer's turns, and why a window of the trace decides
as the whole trace does. -/

namespace Sys2Proof.Machine

open Sys2Proof.Claims

/-! ## The scan's turns (R230 to R232, R236) -/

/-- With a scan in progress and no driver call the host's turn is the scan's. -/
theorem step_scanTakes {s : State} {rest : List Turn} {r : ScanRun} (h : scanTakes s rest r) :
    step s = scanTurn r { s with script := rest } := by
  obtain ⟨hs, hdriver, hscan⟩ := h
  simp [step_host hs, hostTurn, hdriver, hscan]

@[simp] theorem length_sideBytes (trace : List (Byte × Byte)) (sender : Sender) :
    (sideBytes trace sender).length = trace.length := by
  cases sender <;> exact List.length_map _

/-- The magic needs both of its places inside the trace. -/
theorem magicAt_iff {bytes : List Byte} {i : Nat} :
    magicAt bytes i = true ↔ i + 1 < bytes.length ∧ bytes[i]? = some 0x99 ∧ bytes[i + 1]? = some 0x66 := by
  rw [magicAt, Bool.and_eq_true, beq_iff_eq, beq_iff_eq]
  refine ⟨fun h => ⟨?_, h⟩, fun h => h.2⟩
  obtain ⟨hin, -⟩ := List.getElem?_eq_some_iff.1 h.2
  exact hin

/-- A seeking scan's turn, said by whether each direction holds the magic. -/
theorem scanTurn_seek {r : ScanRun} {s : State} (hp : r.phase = .seek) :
    scanTurn r s = .next (if r.i < r.trace.length then
      (if magicAt (sideBytes r.trace .a) r.i = false ∧ magicAt (sideBytes r.trace .b) r.i = false then
        setScan { r with i := r.i + 1 } s
      else setScan { r with phase := .load (if magicAt (sideBytes r.trace .a) r.i then .a else .b) } s)
      else endScan r s) := by
  rw [scanTurn, hp]
  dsimp only
  split
  · unfold senderAt
    cases magicAt (sideBytes r.trace .a) r.i <;> cases magicAt (sideBytes r.trace .b) r.i <;> simp
  · rfl

/-- The window has `n = min(N - i, IBUF_SIZE)` bytes (R231). -/
theorem length_scanWindow (r : ScanRun) (sender : Sender) (size : Nat) :
    (scanWindow r sender size).length = min (r.trace.length - r.i) size := by
  simp [scanWindow, Nat.min_comm]

theorem getElem?_scanWindow {r : ScanRun} {sender : Sender} {size k : Nat} (h : k < size) :
    (scanWindow r sender size)[k]? = (sideBytes r.trace sender)[r.i + k]? := by
  rw [scanWindow, List.getElem?_take_of_lt h, List.getElem?_drop]

theorem scanTurn_load {r : ScanRun} {sender : Sender} {s : State} (hp : r.phase = .load sender) :
    scanTurn r s = hostWrite .ibuf 0 (scanWindow r sender s.params.ibufSize)
      (setScan { r with phase := .issue sender } s) := by
  rw [scanTurn, hp]

/-- The window always fits `IBUF`, so on a ready port the write goes through. -/
theorem scanTurn_load_ready {r : ScanRun} {sender : Sender} {s : State} (hp : r.phase = .load sender)
    (hready : s.pend.valid = false) :
    scanTurn r s = .next { setScan { r with phase := .issue sender } s with
      ibuf := s.ibuf.setBytes 0 (scanWindow r sender s.params.ibufSize) } := by
  rw [scanTurn_load hp]
  refine hostWrite_ibuf hready ?_
  rw [length_scanWindow, Nat.zero_add]
  exact Nat.min_le_right _ _

theorem scanTurn_issue {r : ScanRun} {sender : Sender} {s : State} (hp : r.phase = .issue sender) :
    scanTurn r s = offerRequest (parseWord 0 (BitVec.ofNat 16 (scanWindow r sender s.params.ibufSize).length)) s
      (setScan { r with phase := .report sender } s) := by
  rw [scanTurn, hp]; rfl

/-- Settles O56: the write of the window, the offer of PARSE, and the seek. -/
theorem scanSeeksTheMagic : Obligations.ScanSeeksTheMagic := by
  refine ⟨fun s rest r sender h hp => ?load, fun s rest r sender h hp => ?issue,
    fun s rest r mA mB h hp hA hB => ?seek⟩ <;> rw [step_scanTakes h]
  case load =>
    refine ⟨fun hbusy => (scanTurn_load hp).trans (hostWrite_outstanding hbusy), fun hready =>
      ⟨_, scanTurn_load_ready hp hready, rfl, fun k hk => ?inside, fun a ha => ?outside⟩⟩
    case inside =>
      have hread := Mem.byte_setBytes_inside s.ibuf (i := 0) (hk.trans_eq (length_scanWindow r sender _).symm)
      rw [getElem?_scanWindow (lt_of_lt_of_le hk (Nat.min_le_right _ _)), Nat.zero_add] at hread
      cases sender <;> exact hread
    case outside =>
      refine Mem.byte_setBytes_outside s.ibuf (.inr ?_)
      rw [length_scanWindow, Nat.zero_add]; exact ha
  case issue =>
    rw [scanTurn_issue hp]
    refine ⟨fun hbusy => offerRequest_busy hbusy, fun n hready hn => ?_⟩
    rw [offerRequest_ready (s := { s with script := rest }) hready, length_scanWindow, ← hn, BitVec.ofNat_toNat,
      BitVec.setWidth_eq]
    exact (RequestRow.parse 0 n).issueRequest_eq _
  case seek =>
    have hmagic (sender : Sender) := magicAt_iff (bytes := sideBytes r.trace sender) (i := r.i)
    simp only [length_sideBytes] at hmagic
    obtain rfl : mA = magicAt (sideBytes r.trace .a) r.i := Bool.eq_iff_iff.2 (hA.trans (hmagic .a).symm)
    obtain rfl : mB = magicAt (sideBytes r.trace .b) r.i := Bool.eq_iff_iff.2 (hB.trans (hmagic .b).symm)
    rw [scanTurn_seek hp]
    rfl

/-! ## The report of a frame (R233 to R235) -/

theorem scanTurn_report {r : ScanRun} {sender : Sender} {st : Status} {s : State} (hp : r.phase = .report sender)
    (hresp : s.response = some st) : scanTurn r s = .next (scanReport r sender st s) := by
  rw [scanTurn, hp]
  simp only [hresp]

/-- The sender's latch learns, and the other one stays. -/
theorem ScanRun.learn_eq (r : ScanRun) (sender : Sender) (seen : Byte) : r.learn sender seen = { r with
    learnedA := if sender = .a then some (r.learnedA.getD seen) else r.learnedA
    learnedB := if sender = .b then some (r.learnedB.getD seen) else r.learnedB } := by
  cases sender <;> simp [ScanRun.learn, latchLearn_eq]

/-- The report with the receiver's byte inside the trace: one item for each finding that applies. -/
theorem frameReport_eq {r : ScanRun} {sender : Sender} {p : ParseRegs} {got : Byte}
    (h : (sideBytes r.trace sender.other)[r.i + 9 + p.len.toNat]? = some got) :
    frameReport r sender p = [ScanItem.frame p.cmd sender r.i]
      ++ (if p.find.getLsbD 1 then [ScanItem.reservedFieldAnomaly] else [])
      ++ (if p.find.getLsbD 0 then [ScanItem.checksumMismatch p.csumCalc p.csumRx] else [])
      ++ (match r.learned sender with
          | none => []
          | some id => if p.dev = id then [] else [ScanItem.deviceIdentityDrift id p.dev])
      ++ (if p.ack = 0x00 then [] else [ScanItem.sendAckNonZero p.ack])
      ++ (if got = p.cmd ^^^ 0x80 then [] else [ScanItem.receiveAckMismatch (p.cmd ^^^ 0x80) got]) := by
  simp only [frameReport, h, Option.getD_some, ite_not, ne_eq]
  cases r.learned sender with
  | none => rfl
  | some id => by_cases hd : p.dev = id <;> simp [latchDrift_some, hd]

/-- Settles O57: the two statuses, and on `OK` the frame's report, the learned id and the new index. -/
theorem scanReportsTheFrame : Obligations.ScanReportsTheFrame := by
  intro s rest r sender st got h hp hresp
  rw [step_scanTakes h, scanTurn_report (s := { s with script := rest }) hp hresp, scanReport]
  refine ⟨fun hst => ?incomplete, fun hst hgot => ?ok⟩
  case incomplete => rw [if_pos hst]; rfl
  case ok =>
    rw [if_neg (by rw [hst]; decide), ScanRun.learn_eq, frameReport_eq (got := got) (by cases sender <;> exact hgot)]
    simp only [List.append_assoc]
    cases sender <;> rfl

/-! ## The window and the whole trace (R231) -/

/-- The outcome with another place of the payload. -/
def ParseOutcome.rebase (pbase : Half) : ParseOutcome → ParseOutcome
  | .ends st => .ends st
  | .frame regs => .frame { regs with pbase := pbase }
  | .unwritten => .unwritten

/-- The longest complete frame (R97). -/
def maxFrame : Nat := 265

/-- Two buffers hold the same at an offset each, as far as a frame can reach. -/
def AgreesAt (m : Mem) (o : Nat) (m' : Mem) (o' : Nat) : Prop :=
  ∀ k, k < maxFrame → m.byte (o + k) = m'.byte (o' + k)

/-- A bulk read inside that stretch reads the same. -/
theorem AgreesAt.bytes_eq {m m' : Mem} {o o' a n : Nat} (h : AgreesAt m o m' o') (hn : a + n ≤ maxFrame) :
    m.bytes (o + a) n = m'.bytes (o' + a) n := by
  induction n generalizing a with
  | zero => rfl
  | succ n ih => rw [Mem.bytes_succ, Mem.bytes_succ, h a (by omega), Nat.add_assoc, Nat.add_assoc, ih (by omega)]

theorem AgreesAt.parseFields_eq {m m' : Mem} {o o' : Nat} (h : AgreesAt m o m' o') (len : Byte) :
    parseFields m o len =
      (parseFields m' o' len).map (fun regs => { regs with pbase := BitVec.ofNat 16 (o + 6) }) := by
  have hlen : len.toNat < 256 := len.isLt
  have hbyte (k : Nat) (hk : k < 10) : m.byte (o + k + len.toNat) = m'.byte (o' + k + len.toNat) := by
    rw [Nat.add_assoc, Nat.add_assoc]
    exact h _ (by unfold maxFrame; omega)
  rw [parseFields, parseFields, h 2 (by decide), h 3 (by decide), h 4 (by decide),
    h.bytes_eq (a := 6) (by unfold maxFrame; omega), hbyte 6 (by decide), hbyte 7 (by decide), hbyte 8 (by decide),
    hbyte 9 (by decide)]
  simp only [Option.bind_eq_bind, Option.map_bind, Function.comp_def, Option.map_some]

theorem AgreesAt.parseBody_eq {m m' : Mem} {o o' n n' : Nat} (h : AgreesAt m o m' o')
    (hend : ∀ k, k ≤ maxFrame → (o + k > n ↔ o' + k > n')) :
    parseBody m o n = (parseBody m' o' n').rebase (BitVec.ofNat 16 (o + 6)) := by
  rw [parseBody, parseBody, h 5 (by decide)]
  cases m'.byte (o' + 5) with
  | none => rfl
  | some len =>
    have hlen : len.toNat < 256 := len.isLt
    have hcut : o + 10 + len.toNat > n ↔ o' + 10 + len.toNat > n' := by
      have := hend (10 + len.toNat) (by unfold maxFrame; omega)
      omega
    simp only [hcut, h.parseFields_eq len]
    split
    · rfl
    · cases parseFields m' o' len <;> rfl

/-- PARSE looks at the bytes from its offset on and at how many of them are supplied, up to the longest frame. -/
theorem AgreesAt.parseAt_eq {size whole : Nat} {m m' : Mem} {o o' n n' : Nat} (h : AgreesAt m o m' o')
    (hn : n ≤ size) (hn' : n' ≤ whole) (hend : ∀ k, k ≤ maxFrame → (o + k > n ↔ o' + k > n')) :
    parseAt size m o n = (parseAt whole m' o' n').rebase (BitVec.ofNat 16 (o + 6)) := by
  have hbounds : (n > size ∨ o > n) ↔ (n' > whole ∨ o' > n') := by
    have := hend 0 (by decide)
    omega
  have hmagic : m.bytes o 2 = m'.bytes o' 2 := h.bytes_eq (a := 0) (by decide)
  unfold parseAt
  simp only [hbounds, hend 2 (by decide), hend 6 (by decide), hmagic, h.parseBody_eq hend]
  split
  · rfl
  split
  · rfl
  cases m'.bytes o' 2 with
  | none => rfl
  | some two =>
    dsimp only
    split
    · rfl
    split <;> rfl

/-- What a buffer holds that was written from index 0 on and nowhere else. -/
theorem Mem.byte_setBytes_empty (bs : List Byte) (k : Nat) : (Mem.setBytes [] 0 bs).byte k = bs[k]? := by
  rw [Mem.byte_setBytes, Nat.zero_add, Nat.sub_zero]
  split
  · rfl
  · rw [Mem.byte_nil, List.getElem?_eq_none (by omega)]

/-- A window at least as long as a frame holds what the trace holds from the index on. -/
theorem agreesAt_window {bytes : List Byte} {size : Nat} (i : Nat) (h : maxFrame ≤ size) :
    AgreesAt (Mem.setBytes [] 0 ((bytes.drop i).take size)) 0 (Mem.setBytes [] 0 bytes) i := by
  intro k hk
  rw [Mem.byte_setBytes_empty, Mem.byte_setBytes_empty, Nat.zero_add, List.getElem?_take_of_lt (by omega),
    List.getElem?_drop]

/-- Settles O58: the window and the trace agree as far as a frame can reach, and each supplies as many bytes. -/
theorem scanWindowDecidesLikeTheTrace : Obligations.ScanWindowDecidesLikeTheTrace := by
  intro bytes i size whole hsize hi hwhole
  have hend (k : Nat) (hk : k ≤ maxFrame) : 0 + k > min (bytes.length - i) size ↔ i + k > bytes.length := by
    unfold maxFrame at hk; omega
  rw [(agreesAt_window i hsize).parseAt_eq (Nat.min_le_right _ _) hwhole hend]
  cases parseAt whole (Mem.setBytes [] 0 bytes) i bytes.length <;> rfl

end Sys2Proof.Machine
end

section
/-! The family of 60_exceptions.md: block reads of a byte nobody has written, and link requests outside READY. -/

namespace Sys2Proof.Machine

open Sys2Proof.Claims

/-! ## Block reads of unwritten bytes (R266) -/

theorem exec_encode_unwritten {cmd len : Byte} {s : State} (hv : s.pend.valid = false)
    (h : s.pbuf.bytes 0 len.toNat = none) : exec (.encode cmd len) s = .fault .unwrittenRead := by
  change execEncode cmd len s = _
  rw [execEncode, onPort_ready hv, accept_pbuf, h]

theorem exec_parse_unwritten {off n : Half} {s : State} (hv : s.pend.valid = false)
    (h : parseAt s.params.ibufSize s.ibuf off.toNat n.toNat = .unwritten) :
    exec (.parse off n) s = .fault .unwrittenRead := by
  change execParse off n s = _
  rw [execParse, onPort_ready hv, accept_params, accept_ibuf, h]

/-- The magic detector reads both bytes before it compares (log entry 7). -/
theorem parseAt_unwrittenMarker {size : Nat} {m : Mem} {o n : Nat} (hn : n ≤ size) (ho : o + 2 ≤ n)
    (h : m.byte o = none ∨ m.byte (o + 1) = none) : parseAt size m o n = .unwritten := by
  have htwo : m.bytes o 2 = none := by
    rcases h with h | h
    · exact Mem.bytes_eq_none_iff.2 ⟨0, by decide, h⟩
    · exact Mem.bytes_eq_none_iff.2 ⟨1, by decide, h⟩
  rw [parseAt, if_neg (by omega), if_neg (by omega), htwo]

theorem parseBody_unwrittenLength {m : Mem} {o n : Nat} (h : m.byte (o + 5) = none) : parseBody m o n = .unwritten := by
  rw [parseBody, h]

/-- Every byte of a frame that lies in the buffer is written. -/
theorem Frame.LiesAt.byte_ne_none {f : Frame} {m : Mem} {o k : Nat} (h : f.LiesAt m o) (hlo : o ≤ k)
    (hhi : k < o + 10 + f.len.toNat) : m.byte k ≠ none := by
  intro hk
  have hread : m.bytes o (10 + f.len.toNat) = none :=
    Mem.bytes_eq_none_iff.2 ⟨k - o, by omega, by rwa [Nat.add_sub_cancel' hlo]⟩
  rw [Frame.LiesAt, hread] at h
  cases h

/-- Past the marker and the length byte a parse either matches a frame or meets an unwritten byte, and a frame with an
unwritten byte does not match. -/
theorem parseAt_unwrittenInFrame {size : Nat} {m : Mem} {o n k : Nat} {len : Byte} (hn : n ≤ size)
    (hmagic : m.bytes o 2 = some magic) (hlen : m.byte (o + 5) = some len) (hfits : o + 10 + len.toNat ≤ n)
    (hlo : o ≤ k) (hhi : k < o + 10 + len.toNat) (hk : m.byte k = none) : parseAt size m o n = .unwritten := by
  have hnoFrame (regs : ParseRegs) : parseAt size m o n ≠ .frame regs := by
    intro h
    obtain ⟨-, f, hf, -, -⟩ := Frame.parseAt_eq_frame_iff.1 h
    obtain ⟨-, -, -, -, hflen, -⟩ := Frame.liesAt_iff.1 hf
    have heq : len = f.len := Option.some.inj (hlen.symm.trans hflen)
    exact hf.byte_ne_none hlo (heq ▸ hhi) hk
  rw [parseAt_magic hn (by omega) hmagic, if_neg (by omega), parseBody, hlen] at hnoFrame ⊢
  dsimp only at hnoFrame ⊢
  rw [if_neg (by omega)] at hnoFrame ⊢
  cases hfields : parseFields m o len with
  | none => rfl
  | some regs => exact absurd (by rw [hfields]) (hnoFrame regs)

/-- Settles O12: one lemma for each place where the codec reads a buffer. -/
theorem unwrittenReadsFault : Obligations.UnwrittenReadsFault := by
  refine ⟨?payload, ?marker, ?length, ?frame⟩
  case payload =>
    intro cmd len s k hv hk hnone
    exact exec_encode_unwritten hv (Mem.bytes_eq_none_iff.2 ⟨k, hk, by rwa [Nat.zero_add]⟩)
  case marker =>
    intro off n s hv hn ho hnone
    exact exec_parse_unwritten hv (parseAt_unwrittenMarker hn ho hnone)
  case length =>
    intro off n s hv hn ho h0 h1 hnone
    refine exec_parse_unwritten hv ?_
    rw [parseAt_magic hn (by omega) (Mem.bytes_two h0 h1), if_neg (by omega), parseBody_unwrittenLength hnone]
  case frame =>
    intro off n s len k hv hn h0 h1 hlen hfits hlo hhi hnone
    exact exec_parse_unwritten hv
      (parseAt_unwrittenInFrame hn (Mem.bytes_two h0 h1) hlen hfits (by omega) hhi hnone)

/-! ## Link requests outside READY (R264) -/

theorem startXfer_notReady {b : Byte} {s : State} (hv : s.pend.valid = false) (hl : s.lstate ≠ .ready) :
    startXfer b s = .next (answered 0x11 .notReady s) := by
  rw [startXfer, onPort_ready hv]
  exact if_neg hl

theorem advanceTime_notReady {dt : Word} {s : State} (hv : s.pend.valid = false) (hl : s.lstate ≠ .ready) :
    advanceTime dt s = .next (answered 0x11 .notReady s) := by
  rw [advanceTime, onPort_ready hv]
  exact if_neg hl

/-- Settles O25: each of the six instructions starts an XFER or advances the time, and both check the link first. -/
theorem linkRequestsNeedReady : Obligations.LinkRequestsNeedReady := by
  intro i s hi hv hl
  rcases hi with ⟨b, rfl⟩ | ⟨dt, rfl⟩ | rfl | rfl | rfl | rfl
  exacts [startXfer_notReady hv hl, advanceTime_notReady hv hl, advanceTime_notReady hv hl,
    startXfer_notReady hv hl, startXfer_notReady hv hl, startXfer_notReady hv hl]

end Sys2Proof.Machine
end

section
/-! The family of 70_reset_and_hazards.md: the state after reset, reset during a run, and how a run stands. The end
and the hang of a run are read off the list of a step's effects: a turn that gives no response leaves what `runStatus`
reads as it is, or only takes ways to respond away. -/

namespace Sys2Proof.Machine

open Sys2Proof.Claims

/-! ## Reset (R290, R291) -/

/-- Settles O37: each value stands in the definition of the reset state. -/
theorem resetValues : Obligations.ResetValues :=
  ⟨rfl, rfl, rfl, rfl, rfl, rfl, rfl, rfl, rfl, rfl, fun _ => ⟨rfl, rfl, rfl⟩, rfl, rfl, rfl, rfl⟩

theorem step_reset {s : State} {rest : List Turn} (hs : s.script = .reset :: rest) :
    step s = .next (blockReset { s with script := rest }) := by
  simp [step, hs]

/-- Settles O38: `blockReset` takes all but the parameters, the clock and the other agents from the reset state. -/
theorem resetTurnClearsTheBlock : Obligations.ResetTurnClearsTheBlock :=
  fun _ _ hs => step_reset hs

/-- The ranges of R10 hold of the parameters of the reset state, whatever their free parts are. -/
theorem config_params_legal : Config.params.Legal := by
  have hbeyond : Config.ibufBeyond265.val < 65271 := Config.ibufBeyond265.isLt
  refine ⟨Nat.succ_pos _, Nat.le_add_right _ _, ?_, nofun, Nat.succ_pos _⟩
  change 265 + Config.ibufBeyond265.val ≤ 65535
  omega

/-- Settles O42: the parameters are legal, and every other clause holds of the reset values. -/
theorem resetMeetsTheInvariant : Obligations.ResetMeetsTheInvariant := by
  have hbuf : State.reset.BuffersKept := by simp [State.BuffersKept, State.reset]
  have hfind : State.reset.FindingsKept := by
    change 0 = findings 0 0 0 0
    decide
  exact ⟨config_params_legal, hbuf, .of_not_pending rfl, ⟨Nat.zero_le _, fun _ => rfl⟩, hfind, rfl⟩

/-! ## How a run stands, by what holds of the state (R298) -/

/-- A host with nothing to issue has no driver call, no scan, and no step that issues in its program. -/
theorem hostHasRequests_eq_false {s : State} : hostHasRequests s = false ↔
    s.host.driver = none ∧ s.host.scan = none ∧ ∀ op ∈ s.host.queue, op.issues = false := by
  simp [hostHasRequests, and_assoc]

/-- Only a layer in progress waits for a response. -/
theorem hostAwaits_eq_false {s : State} (hd : s.host.driver = none) (hs : s.host.scan = none) :
    hostAwaits s = false := by
  simp [hostAwaits, hd, hs]

theorem runStatus_eq_ended {s : State} :
    runStatus s = .ended ↔ s.pend.valid = false ∧ hostHasRequests s = false := by
  cases hv : s.pend.valid with
  | true => cases hc : canRespond s <;> simp [runStatus, hv, hc]
  | false =>
    cases hr : hostHasRequests s with
    | true => cases ha : hostAwaits s && s.response.isNone <;> simp [runStatus, hv, hr, ha]
    | false =>
      obtain ⟨hd, hs, -⟩ := hostHasRequests_eq_false.1 hr
      simp [runStatus, hv, hr, hostAwaits_eq_false hd hs]

/-- With nothing outstanding the run hangs exactly when a layer of the host waits for a response that has not been
given. -/
theorem runStatus_free_eq_hung {s : State} (hv : s.pend.valid = false) :
    runStatus s = .hung ↔ hostAwaits s = true ∧ s.response = none := by
  have hlost : (hostAwaits s && s.response.isNone) = true ↔ hostAwaits s = true ∧ s.response = none := by simp
  rw [← hlost, runStatus, if_neg (Bool.eq_false_iff.1 hv)]
  split_ifs with ha hr <;> simp [ha]

/-! ## Turns that neither issue nor answer a request -/

/-- The slot, the responses, and the host's program and layers stay as they are. -/
structure KeepsCalls (s t : State) : Prop where
  pend : t.pend = s.pend
  response : t.response = s.response
  respHist : t.respHist = s.respHist
  driver : t.host.driver = s.host.driver
  scan : t.host.scan = s.host.scan
  queue : t.host.queue = s.host.queue

theorem KeepsCalls.refl (s : State) : KeepsCalls s s := ⟨rfl, rfl, rfl, rfl, rfl, rfl⟩

/-- With nothing outstanding, how the run stands depends on what such a turn keeps. -/
theorem KeepsCalls.runStatus_eq {s t : State} (h : KeepsCalls s t) (hv : s.pend.valid = false) :
    runStatus t = runStatus s := by
  simp [runStatus, hostAwaits, hostHasRequests, h.pend, h.response, h.driver, h.scan, h.queue, hv]

theorem ReceiveEffect.keepsCalls {s t : State} (e : ReceiveEffect s t) (hv : s.pend.valid = false) :
    KeepsCalls s t := by
  cases e with
  | waits | matched | mismatched => exact ⟨rfl, rfl, rfl, rfl, rfl, rfl⟩
  | completed _ _ _ _ hpending => exact Bool.noConfusion (hv.symm.trans hpending)
  | dropped _ _ _ _ _ hpending => exact Bool.noConfusion (hv.symm.trans hpending)

theorem peerTurn_keepsCalls {s : State} (hv : s.pend.valid = false) : KeepsCalls s (peerTurn s) := by
  rcases peerTurn_cases s with h | ⟨op, rest, -, h⟩
  · rw [h]; exact .refl s
  rcases peerStep_some h with ⟨-, -, h⟩ | ⟨r, -, -, -, h⟩ | ⟨-, -, -, h⟩ | ⟨-, -, hpending, -⟩
  · rw [h]; exact ⟨rfl, rfl, rfl, rfl, rfl, rfl⟩
  · rw [h]; exact ⟨rfl, rfl, rfl, rfl, rfl, rfl⟩
  · rw [h]; exact ⟨rfl, rfl, rfl, rfl, rfl, rfl⟩
  · exact Bool.noConfusion (hv.symm.trans hpending)

theorem tick_keepsCalls (c : DWord) (s : State) : KeepsCalls s (tick c s) := by
  rcases tick_cases c s with ⟨-, h⟩ | ⟨-, h⟩ <;> rw [h] <;> exact ⟨rfl, rfl, rfl, rfl, rfl, rfl⟩

theorem timeoutStep_keepsCalls {s : State} (hv : s.pend.valid = false) : KeepsCalls s (timeoutStep s) := by
  rcases timeoutStep_cases s with h | ⟨limit, -, -, hpending, -⟩
  · rw [h]; exact .refl s
  · exact Bool.noConfusion (hv.symm.trans hpending)

/-- With nothing outstanding a step without reset is a turn of the host, or neither issues nor answers a request. -/
theorem step_hostTurn_or_keepsCalls {s t : State} (h : step s = .next t) (hreset : s.script.head? ≠ some .reset)
    (hv : s.pend.valid = false) :
    (∃ rest, hostTurn { s with script := rest } = .next t) ∨ KeepsCalls s t := by
  cases step_next h with
  | idle => exact .inr (.refl s)
  | host rest hs => exact .inl ⟨rest, step_host hs ▸ h⟩
  | peer rest => exact .inr { peerTurn_keepsCalls (s := { s with script := rest }) hv with }
  | tick rest c => exact .inr { tick_keepsCalls c { s with script := rest } with }
  | receive _ _ _ e => exact .inr { e.keepsCalls hv with }
  | timeout rest => exact .inr { timeoutStep_keepsCalls (s := { s with script := rest }) hv with }
  | reset rest hs => exact absurd (by rw [hs]; rfl) hreset

/-! ## A run that has ended -/

theorem hostWrite_keepsCalls {sp : Space} {i : Nat} {bs : List Byte} {s t : State} (h : hostWrite sp i bs s = .next t) :
    KeepsCalls s t := by
  obtain ⟨-, -, ⟨-, rfl⟩ | ⟨-, rfl⟩⟩ := hostWrite_next h <;> exact ⟨rfl, rfl, rfl, rfl, rfl, rfl⟩

/-- A step of the host's program that issues no request moves neither slot nor responses and starts no layer. -/
theorem hostOp_keepsCalls {op : HostOp} {s popped t : State} (hop : op.issues = false)
    (h : hostOp op s popped = .next t) : KeepsCalls popped t := by
  cases op with
  | request | advanceTime | command | scan => exact Bool.noConfusion hop
  | writePbuf | writeIbuf => exact hostWrite_keepsCalls h
  | readReg | setTransferNoResponse | newSession => cases h; exact ⟨rfl, rfl, rfl, rfl, rfl, rfl⟩
  | readByte sp i =>
    simp only [hostOp] at h
    split at h
    · cases h
      rcases afterHostRead_cases popped sp i with e | e <;> rw [e] <;> exact ⟨rfl, rfl, rfl, rfl, rfl, rfl⟩
    · cases h

/-- The rest of a program without requests holds none. -/
theorem popHost_ended {s : State} (h : runStatus s = .ended) : runStatus (popHost s) = .ended := by
  obtain ⟨hv, hrequests⟩ := runStatus_eq_ended.1 h
  obtain ⟨hd, hs, hqueue⟩ := hostHasRequests_eq_false.1 hrequests
  exact runStatus_eq_ended.2
    ⟨hv, hostHasRequests_eq_false.2 ⟨hd, hs, fun op hop => hqueue op (List.mem_of_mem_tail hop)⟩⟩

theorem hostTurn_ended {s t : State} (hended : runStatus s = .ended) (h : hostTurn s = .next t) :
    runStatus t = .ended ∧ t.respHist = s.respHist := by
  obtain ⟨hv, hrequests⟩ := runStatus_eq_ended.1 hended
  obtain ⟨hd, hs, hqueue⟩ := hostHasRequests_eq_false.1 hrequests
  simp only [hostTurn, hd, hs] at h
  split at h
  · cases h; exact ⟨hended, rfl⟩
  · next op ops hq =>
    have hkept : KeepsCalls (popHost s) t := hostOp_keepsCalls (hqueue op (by rw [hq]; exact List.mem_cons_self)) h
    exact ⟨(hkept.runStatus_eq hv).trans (popHost_ended hended), hkept.respHist⟩

/-- An ended run stays ended. -/
theorem step_ended {s t : State} (hended : runStatus s = .ended) (hreset : s.script.head? ≠ some .reset)
    (h : step s = .next t) : runStatus t = .ended ∧ t.respHist = s.respHist := by
  obtain ⟨hv, -⟩ := runStatus_eq_ended.1 hended
  rcases step_hostTurn_or_keepsCalls h hreset hv with ⟨rest, hturn⟩ | hkept
  · exact hostTurn_ended (s := { s with script := rest }) hended hturn
  · exact ⟨(hkept.runStatus_eq hv).trans hended, hkept.respHist⟩

/-! ## A hang: the host waits for a request that a reset took -/

/-- A layer that waits for a response which has not been given does nothing in its turn. -/
theorem hostTurn_awaiting {s : State} (ha : hostAwaits s = true) (hr : s.response = none) :
    hostTurn s = .next s := by
  cases hd : s.host.driver with
  | some d =>
    have hw : d.waiting = true := by simpa [hostAwaits, hd] using ha
    simp [hostTurn, hd, driverTurn, hw, hr]
  | none =>
    cases hs : s.host.scan with
    | none => exact absurd ha (by simp [hostAwaits_eq_false hd hs])
    | some r =>
      cases hp : r.phase with
      | report sender => simp [hostTurn, hd, hs, scanTurn, hp, hr]
      | seek | load | issue => simp [hostAwaits, hd, hs, hp] at ha

theorem step_hung_free {s t : State} (hv : s.pend.valid = false) (hhung : runStatus s = .hung)
    (hreset : s.script.head? ≠ some .reset) (h : step s = .next t) :
    runStatus t = .hung ∧ t.respHist = s.respHist := by
  obtain ⟨ha, hr⟩ := (runStatus_free_eq_hung hv).1 hhung
  rcases step_hostTurn_or_keepsCalls h hreset hv with ⟨rest, hturn⟩ | hkept
  · cases (hostTurn_awaiting (s := { s with script := rest }) ha hr).symm.trans hturn
    exact ⟨hhung, rfl⟩
  · exact ⟨(hkept.runStatus_eq hv).trans hhung, hkept.respHist⟩

/-! ## A hang: a pending XFER without a reply, a loss or a timeout ahead (R172, R175, R176) -/

/-- The XFER and the parameters stay as they are, and no new reply and no new step of the peer comes up. -/
structure KeepsSilence (s t : State) : Prop extends KeepsXfer s t where
  params : t.params = s.params
  rxq : ∀ r ∈ t.rxq, r ∈ s.rxq ∨ r.code ≠ 0x69
  ahead : ∀ op ∈ peerAhead t, op ∈ peerAhead s

theorem KeepsSilence.cannotRespond {s t : State} (h : KeepsSilence s t) (hc : canRespond s = false) :
    canRespond t = false := by
  refine canRespond_eq_false.2 fun hl => ?_
  obtain ⟨hreplies, hpeer, htimeout⟩ := canRespond_eq_false.1 hc (h.lstate ▸ hl)
  refine ⟨fun r hr => (h.rxq r hr).elim (hreplies r) id, fun op hop => hpeer op (h.ahead op hop), ?_⟩
  rwa [timeoutReachable, h.params, h.pend]

theorem KeepsSilence.refl (s : State) : KeepsSilence s s :=
  ⟨⟨rfl, rfl, rfl⟩, rfl, fun _ => .inl, fun _ => id⟩

/-- On a busy port the host moves its own layer only. -/
theorem HostEffect.keepsSilence {s t : State} (e : HostEffect s t) (hv : s.pend.valid = true) : KeepsSilence s t := by
  cases e with
  | layer => exact { KeepsSilence.refl s with }
  | request _ _ _ hready => exact Bool.noConfusion (hready.symm.trans hv)
  | wrotePbuf _ _ _ hready => exact Bool.noConfusion (hready.symm.trans hv)
  | wroteIbuf _ _ _ hready => exact Bool.noConfusion (hready.symm.trans hv)

/-- The core finds no reply in the queue, and takes other records off it. -/
theorem ReceiveEffect.keepsSilence {s t : State} (e : ReceiveEffect s t) (hl : s.lstate = .ready)
    (hreplies : ∀ r ∈ s.rxq, r.code ≠ 0x69) : KeepsSilence s t := by
  have hxfer : KeepsXfer s t := e.keepsXfer hl fun r hr => hreplies r (List.mem_of_mem_head? hr)
  cases e with
  | waits => exact .refl s
  | matched r rs hq hshake => exact absurd (hl.symm.trans hshake) (by decide)
  | mismatched r rs hq hshake => exact absurd (hl.symm.trans hshake) (by decide)
  | completed r rs hq _ _ hcode => exact absurd hcode (hreplies r (by simp [hq]))
  | dropped r rs log hq =>
    exact { hxfer with params := rfl, rxq := fun _ hr => .inl (by rw [hq]; exact .tail r hr), ahead := fun _ => id }

/-- Unless it is a connection, the peer's next step is the first of those ahead. -/
theorem peerAhead_cons {s : State} {op : PeerOp} {ops : List PeerOp} (hp : s.peer = op :: ops) (hop : op ≠ .connect) :
    peerAhead s = op :: peerAhead { s with peer := ops } := by
  simp [peerAhead, hp, hop]

/-- The peer can push other records only, and waits for ever at a further connection (R165). -/
theorem peerTurn_keepsSilence {s : State} (hl : s.lstate = .ready)
    (hpeer : ∀ op ∈ peerAhead s, op.endsXfer = false) : KeepsSilence s (peerTurn s) := by
  rcases peerTurn_cases s with h | ⟨op, ops, hp, h⟩
  · rw [h]; exact .refl s
  have hlost (hop : op = .lost) : False := by
    subst hop
    exact absurd (hpeer .lost (by simp [peerAhead_cons hp])) (by decide)
  rcases peerStep_some h with ⟨-, hlisten, -⟩ | ⟨r, rfl, -, -, h⟩ | ⟨hop, -⟩ | ⟨hop, -⟩
  · exact absurd (hl.symm.trans hlisten) (by decide)
  · have hahead := peerAhead_cons hp (by simp)
    have hr : r.code ≠ 0x69 := by simpa [PeerOp.endsXfer] using hpeer (.push r) (by simp [hahead])
    rw [h]
    refine ⟨⟨rfl, rfl, rfl⟩, rfl, fun x hx => ?_, fun x hx => by rw [hahead]; exact .tail _ hx⟩
    rcases List.mem_append.1 hx with hx | hx
    · exact .inl hx
    · exact .inr (List.mem_singleton.1 hx ▸ hr)
  · exact (hlost hop).elim
  · exact (hlost hop).elim

theorem tick_keepsSilence (c : DWord) (s : State) : KeepsSilence s (tick c s) := by
  rcases tick_cases c s with ⟨-, h⟩ | ⟨-, h⟩ <;> rw [h] <;> exact { KeepsSilence.refl s with }

/-- The clock has 64 bits, so a timeout that it cannot reach is never due. -/
theorem timeoutStep_unreachable {s : State} (h : timeoutReachable s = false) : timeoutStep s = s := by
  rcases timeoutStep_cases s with he | ⟨limit, hlimit, -, -, hdue, -⟩
  · exact he
  · have hbeyond : ¬ s.pend.t0.toNat + limit < 2 ^ 64 := by simpa [timeoutReachable, hlimit] using h
    have hclock : s.clock.toNat < 2 ^ 64 := s.clock.isLt
    omega

theorem step_keepsSilence {s t : State} (hl : s.lstate = .ready) (hv : s.pend.valid = true)
    (hc : canRespond s = false) (hreset : s.script.head? ≠ some .reset) (h : step s = .next t) : KeepsSilence s t := by
  obtain ⟨hreplies, hpeer, htimeout⟩ := canRespond_eq_false.1 hc hl
  cases step_next h with
  | idle => exact .refl s
  | host _ _ _ e => exact { e.keepsSilence hv with }
  | peer rest => exact { peerTurn_keepsSilence (s := { s with script := rest }) hl hpeer with }
  | tick rest c => exact { tick_keepsSilence c { s with script := rest } with }
  | receive _ _ _ e => exact { e.keepsSilence hl hreplies with }
  | timeout rest =>
    rw [timeoutStep_unreachable (by exact htimeout)]
    exact { KeepsSilence.refl s with }
  | reset rest hs => exact absurd (by rw [hs]; rfl) hreset

theorem step_hung_pending {s t : State} (hl : s.lstate = .ready) (hv : s.pend.valid = true)
    (hhung : runStatus s = .hung) (hreset : s.script.head? ≠ some .reset) (h : step s = .next t) :
    runStatus t = .hung ∧ t.respHist = s.respHist := by
  have hc := (runStatus_pending_eq_hung hv).1 hhung
  have hkept := step_keepsSilence hl hv hc hreset h
  exact ⟨(runStatus_pending_eq_hung (hkept.pend ▸ hv)).2 (hkept.cannotRespond hc), hkept.respHist⟩

/-! ## A pending XFER that can still respond -/

theorem runStatus_pending_eq_running {s : State} (h : s.pend.valid = true) :
    runStatus s = .running ↔ canRespond s = true := by
  simp [runStatus, h]

/-- The next step of the peer, where it ends an XFER, is one that it can still take. -/
theorem head_mem_peerAhead {s : State} {op : PeerOp} (hp : s.peer.head? = some op) (he : op.endsXfer = true) :
    op ∈ peerAhead s := by
  obtain ⟨ops, hops⟩ := List.head?_eq_some_iff.1 hp
  have hconnect : op ≠ .connect := by rintro rfl; exact Bool.noConfusion he
  rw [peerAhead_cons hops hconnect]
  exact List.mem_cons_self

/-- One way to respond is enough. -/
theorem canRespond_of_way {s : State} (hl : s.lstate = .ready)
    (h : (∃ r ∈ s.rxq, r.code = 0x69) ∨ (∃ op ∈ peerAhead s, op.endsXfer = true) ∨ timeoutReachable s = true) :
    canRespond s = true := by
  simpa [canRespond, hl, or_assoc] using h

theorem timeoutReachable_of_lt {s : State} {limit : Nat} (hlimit : s.params.xferTimeout = some limit)
    (hlt : s.pend.t0.toNat + limit < 2 ^ 64) : timeoutReachable s = true := by
  rw [timeoutReachable, hlimit]
  exact decide_eq_true hlt

/-- Settles O60: what ended means, the ended run and the two kinds of hang step by step, and each way to respond. -/
theorem runEndsOrHangsForGood : Obligations.RunEndsOrHangsForGood := by
  refine ⟨fun s => ?ended, fun s t hended hreset h => step_ended hended hreset h, fun s hl hv hway => ?running,
    fun s t hinv hhung hreset h => ?hung⟩
  case ended =>
    rw [runStatus_eq_ended, hostHasRequests_eq_false]
    simp only [issues_eq_false]
  case running =>
    refine (runStatus_pending_eq_running hv).2 (canRespond_of_way hl ?_)
    rcases hway with hreply | hlost | ⟨r, hpush, hcode⟩ | ⟨limit, hlimit, hlt⟩
    · exact .inl hreply
    · exact .inr (.inl ⟨_, head_mem_peerAhead hlost rfl, rfl⟩)
    · have hends : (PeerOp.push r).endsXfer = true := beq_iff_eq.2 hcode
      exact .inr (.inl ⟨_, head_mem_peerAhead hpush hends, hends⟩)
    · exact .inr (.inr (timeoutReachable_of_lt hlimit hlt))
  case hung =>
    cases hv : s.pend.valid with
    | true =>
      obtain ⟨-, -, hpend, -⟩ := hinv
      exact step_hung_pending (hpend hv).1 hv hhung hreset h
    | false => exact step_hung_free hv hhung hreset h

end Sys2Proof.Machine
end
